-- ==== Sys2Proof/Word.lean ====
section
/-! DEFINITION. The widths of the KHG (00_scope.md R7): 32-bit words, bytes, 16-bit node indices, 64-bit length. -/

namespace Sys2Proof

/-- A register, digest, ring point, CRC accumulator or MD5 word (R7). -/
abbrev Word := BitVec 32

/-- A byte of a key or of the MD5 block buffer (R10). -/
abbrev Byte := BitVec 8

/-- A node index, node count or ring index (R7). -/
abbrev Half := BitVec 16

/-- The MD5 byte-length counter (R7, R39). -/
abbrev Dword := BitVec 64

end Sys2Proof
end

