-- ==== Sys2Proof/Syntax.lean ====
section
/-! DEFINITION. The eleven command words of the KHG as syntax (30_encoding.md R66): one constructor per row of the
opcode table, operands as the assembler notation of R68 writes them. -/

namespace Sys2Proof

/-- Where RING_LOOKUP takes its query from (30_encoding.md R61): `SRC = 0` is DATA_IN, `SRC = 1` is RESULT. -/
inductive QuerySource where
  | data
  | result
deriving DecidableEq, Repr, Inhabited

/-- An instruction: a 32-bit command word (00_scope.md R2). -/
inductive Instr where
  /-- `NOP` (R70). -/
  | nop
  /-- `CRC_INIT` (R76). -/
  | crcInit
  /-- `CRC_UPDATE n`: `n` key bytes, 1 to 4 (R77, R60). -/
  | crcUpdate (n : Nat)
  /-- `CRC_FINAL` (R78). -/
  | crcFinal
  /-- `MD5_INIT` (R89). -/
  | md5Init
  /-- `MD5_UPDATE n`: `n` key bytes, 1 to 4 (R90, R60). -/
  | md5Update (n : Nat)
  /-- `MD5_FINAL` (R91). -/
  | md5Final
  /-- `RING_BEGIN N`: `N` is the node count (R94, R62). -/
  | ringBegin (nodes : Half)
  /-- `RING_APPEND k`: `k` is the node index of the point (R95, R62). -/
  | ringAppend (node : Half)
  /-- `RING_COMMIT` (R96). -/
  | ringCommit
  /-- `RING_LOOKUP data` or `RING_LOOKUP result` (R97, R61). -/
  | ringLookup (src : QuerySource)
deriving DecidableEq, Repr, Inhabited

end Sys2Proof
end

