-- ==== Sys2Proof/WellFormed.lean ====
section
/-! DEFINITION. Which instructions have a command word, and which the assembler notation admits. -/

namespace Sys2Proof

/-- The byte count of an UPDATE command: "1 ≤ n ≤ 4 ... No encoding means zero bytes" (30_encoding.md R60). -/
def byteCountOk (n : Nat) : Bool := decide (1 ≤ n) && decide (n ≤ 4)

/-- The instruction has a command word (30_encoding.md R60, R66): every operand fits its field. IMM16 and SRC are of
their fields' own type, so the UPDATE byte counts are what is left to check. -/
def Instr.wellFormed : Instr → Bool
  | .nop => true
  | .crcInit => true
  | .crcUpdate n => byteCountOk n
  | .crcFinal => true
  | .md5Init => true
  | .md5Update n => byteCountOk n
  | .md5Final => true
  | .ringBegin _ => true
  | .ringAppend _ => true
  | .ringCommit => true
  | .ringLookup _ => true

/-- The instruction is assemblable (30_encoding.md R68): well formed, and `RING_BEGIN N` has `N` in 1..65535. The word
of `RING_BEGIN 0` is a legal encoding all the same, and raises BAD_OPERAND (R94). -/
def Instr.assemblable : Instr → Bool
  | .ringBegin nodes => decide (nodes ≠ 0)
  | i => i.wellFormed

end Sys2Proof
end

