-- ==== Sys2Proof/Decode.lean ====
section
/-! DEFINITION. The decoder of command words (30_encoding.md R64), total and rejecting by name, and the encoder
(R66). -/

namespace Sys2Proof

/-- Why a word is no command (30_encoding.md R65). Both are error ILLEGAL_CMD. -/
inductive DecodeError where
  /-- "OP is unassigned". -/
  | unassignedOp
  /-- "some bit outside the command's used fields is 1". -/
  | unusedBitSet
deriving DecidableEq, Repr

/-- `OP = v[7:0]` (R59). -/
def fieldOp (v : Word) : Byte := v.extractLsb' 0 8

/-- `NM1 = v[9:8]` (R60). -/
def fieldNm1 (v : Word) : BitVec 2 := v.extractLsb' 8 2

/-- `SRC = v[12]` (R61). -/
def fieldSrc (v : Word) : Bool := v.getLsbD 12

/-- `IMM16 = v[31:16]` (R62). -/
def fieldImm16 (v : Word) : Half := v.extractLsb' 16 16

/-- The byte count `n = zext(NM1) + 1` (R60). -/
def byteCount (v : Word) : Nat := (fieldNm1 v).toNat + 1

/-- The query source that SRC selects (R61). -/
def querySource (v : Word) : QuerySource := if fieldSrc v then .result else .data

/-- A row of the opcode table: `match` and `mask` (R66), and the instruction with its operands taken from the word. -/
structure OpcodeRow where
  mask : Word
  bits : Word
  instr : Word → Instr

/-- The opcode map (30_encoding.md R66), row by row. -/
def opcodeTable : List OpcodeRow :=
  [ ⟨0xFFFFFFFF, 0x00000000, fun _ => .nop⟩,
    ⟨0xFFFFFFFF, 0x00000001, fun _ => .crcInit⟩,
    ⟨0xFFFFFCFF, 0x00000002, fun v => .crcUpdate (byteCount v)⟩,
    ⟨0xFFFFFFFF, 0x00000003, fun _ => .crcFinal⟩,
    ⟨0xFFFFFFFF, 0x00000010, fun _ => .md5Init⟩,
    ⟨0xFFFFFCFF, 0x00000011, fun v => .md5Update (byteCount v)⟩,
    ⟨0xFFFFFFFF, 0x00000012, fun _ => .md5Final⟩,
    ⟨0x0000FFFF, 0x00000020, fun v => .ringBegin (fieldImm16 v)⟩,
    ⟨0x0000FFFF, 0x00000021, fun v => .ringAppend (fieldImm16 v)⟩,
    ⟨0xFFFFFFFF, 0x00000022, fun _ => .ringCommit⟩,
    ⟨0xFFFFEFFF, 0x00000023, fun v => .ringLookup (querySource v)⟩ ]

/-- "the unique row r of the opcode table with (v & r.mask) = r.match" (R64). -/
def OpcodeRow.hits (r : OpcodeRow) (v : Word) : Bool := v &&& r.mask == r.bits

/-- `Decode(v)` (30_encoding.md R64, R65): the instruction of the row that matches, or the reason the word is illegal. -/
def decode (v : Word) : Except DecodeError Instr :=
  match opcodeTable.find? (·.hits v) with
  | some r => .ok (r.instr v)
  | none =>
    if opcodeTable.any (fun r => fieldOp r.bits == fieldOp v) then .error .unusedBitSet else .error .unassignedOp

/-- NM1 of a byte count, in place (R60: "n = zext(NM1) + 1"). -/
def placeByteCount (n : Nat) : Word := ((BitVec.ofNat 2 (n - 1)).setWidth 32) <<< 8

/-- IMM16 in place (R62). -/
def placeImm16 (k : Half) : Word := (k.setWidth 32) <<< 16

/-- SRC in place (R61). -/
def placeSrc : QuerySource → Word
  | .data => 0
  | .result => 0x1000

/-- The command word of an instruction (R66, "Command word for each form"). -/
def encode : Instr → Word
  | .nop => 0x00000000
  | .crcInit => 0x00000001
  | .crcUpdate n => 0x00000002 ||| placeByteCount n
  | .crcFinal => 0x00000003
  | .md5Init => 0x00000010
  | .md5Update n => 0x00000011 ||| placeByteCount n
  | .md5Final => 0x00000012
  | .ringBegin nodes => 0x00000020 ||| placeImm16 nodes
  | .ringAppend node => 0x00000021 ||| placeImm16 node
  | .ringCommit => 0x00000022
  | .ringLookup src => 0x00000023 ||| placeSrc src

/-- The word that `nbits` bits of the table's numbering stand for: a command is one 32-bit word (R58), written whole to
CMD, so bit 0 of the table is bit 0 of the word and every bit above `nbits` is 0. -/
def tableWord (nbits w : Nat) : Word := BitVec.ofNat 32 (w % 2 ^ nbits)

/-- The instruction this decoder reads from a row's word. A command is exactly one 32-bit word (R58): no row is longer. -/
def decodeTableWord (nbits w : Nat) : Option Instr :=
  if nbits ≤ 32 then (decode (tableWord nbits w)).toOption else none

end Sys2Proof
end

