-- ==== Sys2Proof/Config.lean ====
section
/-! DEFINITION. What an instance of the KHG fixes (93_implementation_defined.md section 1), as plain data that State
carries and no step changes; and the free values of the two memories whose content the spec leaves unspecified
(93_implementation_defined.md section 2). -/

namespace Sys2Proof

/-- The open parameters of an instance (93_implementation_defined.md section 1). -/
structure Config where
  /-- `RING_DEPTH`, the number of entries of the ring-point table, 1 to 65536 (00_scope.md R6). -/
  ringDepth : Nat
  /-- `KHG_BASE`, the address of the register window, a multiple of 128 (20_memory.md R43). -/
  khgBase : Nat
deriving DecidableEq, Repr, Inhabited

/-- The legal values of the parameters (00_scope.md R6, 20_memory.md R43). -/
def Config.legal (c : Config) : Bool :=
  decide (1 ≤ c.ringDepth) && decide (c.ringDepth ≤ 65536) && decide (c.khgBase % 128 = 0)

/-- DESIGN CHOICE (log 2). The instance that `State.reset` shows: the RING_DEPTH that R6 suggests, with its window at
address 0. No statement rests on either number. -/
def Config.suggested : Config := { ringDepth := 16384, khgBase := 0 }

/-- Free value (log 4): the point that ring entry `index` holds, unwritten, after reset number `epoch`
(10_state.md R35: "Its content at reset is unspecified"). -/
opaque Config.freeRingPoint : (epoch index : Nat) → Word

/-- Free value (log 4): the node that ring entry `index` holds, unwritten, after reset number `epoch` (R35). -/
opaque Config.freeRingNode : (epoch index : Nat) → Half

/-- Free value (log 4): byte `index` of MD5.BUF, unwritten, after reset number `epoch` (10_state.md R38). -/
opaque Config.freeMd5Byte : (epoch index : Nat) → Byte

end Sys2Proof
end

