-- ==== Sys2Proof/Machine/Initial.lean ====
section
/-! DEFINITION. The initial values that reset and the INIT commands share. -/

namespace Sys2Proof.Machine

/-- The MD5 chaining words A, B, C, D (10_state.md R37). -/
structure Chain where
  a : Word
  b : Word
  c : Word
  d : Word
deriving DecidableEq, Repr

/-- The MD5 initial chaining values IV (42_md5.md R80). -/
def md5Iv : Chain := { a := 0x67452301, b := 0xEFCDAB89, c := 0x98BADCFE, d := 0x10325476 }

/-- The initial value of the CRC accumulator (41_crc.md R74, 10_state.md R28). -/
def crcInitial : Word := 0xFFFFFFFF

end Sys2Proof.Machine
end

