-- ==== Sys2Proof/Machine/State.lean ====
section
/-! DEFINITION. The state of the KHG (10_state.md), the outcomes that stop a step, and the state after reset
(70_reset_and_hazards.md R118). -/

namespace Sys2Proof.Machine

/-- The error codes of STATUS.ERRCODE (60_exceptions.md R103); code 0 NONE is "no error recorded", and 9 to 15 are
never produced. -/
inductive ErrCode where
  | illegalCmd
  | busy
  | emptyRing
  | ringNotReady
  | ringState
  | ringFull
  | ringOrder
  | badOperand
deriving DecidableEq, Repr

/-- STATUS.RSTATE (10_state.md R23); "The value 3 is never produced". -/
inductive RState where
  | empty
  | building
  | ready
deriving DecidableEq, Repr

/-- CTRL (10_state.md R19); bits [31:2] are RAZ/WI and have no storage. -/
structure Ctrl where
  crcslice : Bool
  irqen : Bool
deriving DecidableEq, Repr

/-- LK_INDEX, LK_POINT and LK_NODE (10_state.md R31 to R33). -/
structure Lookup where
  wrap : Bool
  index : Half
  point : Word
  node : Half
deriving DecidableEq, Repr

/-- DIGEST0 to DIGEST3 (10_state.md R34). -/
structure Digest where
  d0 : Word
  d1 : Word
  d2 : Word
  d3 : Word
deriving DecidableEq, Repr

/-- An entry of the ring-point table (10_state.md R35). -/
structure RingPoint where
  point : Word
  node : Half
deriving DecidableEq, Repr

/-- The MD5 engine: chaining words (R37), block buffer and level (R38), byte counter (R39). `buf` lists the bytes
written since reset as (index, byte), indices strictly rising; a byte not listed is a free value (log 4). -/
structure Md5Ctx where
  chain : Chain
  buf : List Host.Cell
  level : BitVec 6
  len : Dword
deriving DecidableEq, Repr

/-- The command latch (10_state.md R40, 30_encoding.md R63). -/
structure Latch where
  word : Word
  opnd : Word
  res : Word
  slice : Bool
deriving DecidableEq, Repr

/-- An access on the host port: its byte address, its width in bytes, and the value written (20_memory.md R46). Only a
width of 4 at an aligned offset has a step (R44). -/
inductive Access where
  | read (addr width : Nat)
  | write (addr width : Nat) (value : Word)
deriving DecidableEq, Repr

/-- One entry of the schedule (00_scope.md R5, log 1): a host access, the engine's turn, or the assertion of `rst`. -/
inductive PortEvent where
  | host (a : Access)
  | engine
  | reset
deriving DecidableEq, Repr

/-- The state of the KHG. `STATUS.BUSY` is `latch.isSome` (R20, R40), `STATUS.ERR` is `error.isSome` and ERRCODE its
code (R22; DEDUCED, log 3); `cfg` holds the instance's parameters, which no step changes; `script`, `rdata` and `epoch` are the model's
own (DESIGN CHOICE, logs 1, 5 and 4). -/
structure State where
  cfg : Config
  ctrl : Ctrl
  done : Bool
  error : Option ErrCode
  rstate : RState
  dataIn : Word
  result : Word
  crc : Word
  ringCount : Word
  ringNodes : Half
  lk : Lookup
  digest : Digest
  ring : List (Nat × RingPoint)
  md5 : Md5Ctx
  latch : Option Latch
  script : List PortEvent
  rdata : Option Word
  epoch : Nat
deriving DecidableEq, Repr

/-- Why a step stops with a fault. -/
inductive Fault where
  /-- Raised by `step` when the latch holds a word that decodes to no command. Safe: acceptance latches decoded words
  only (30_encoding.md R63), so no run that starts from an empty latch reaches it (DEDUCED, log 9). -/
  | latchedWordIllegal
deriving DecidableEq, Repr

/-- Why a step is refused. -/
inductive Refusal where
  /-- An arm of `exec` without a meaning; no arm answers it now. Safe. -/
  | notModelled (mnemonic : String)
  /-- Raised by `exec` on a state with no pending command: completion is "enabled only while x[STATUS].BUSY = 1"
  (60_exceptions.md R104). `step` never asks for it. Safe. -/
  | noPendingCommand
  /-- Raised by `step` on a host access that is not 4 bytes wide: "A model refuses it: there is no step for it"
  (20_memory.md R44). Safe. -/
  | accessWidth
  /-- Raised by `step` on a host access whose offset has bits [1:0] ≠ 00 (R44). Safe. -/
  | misalignedAccess
  /-- Raised by `step` on a host access outside the 128-byte window (R43, 93_implementation_defined.md section 3). Safe. -/
  | outsideWindow
deriving DecidableEq, Repr

/-- The state of an instance right after reset (10_state.md R16 to R40, 70_reset_and_hazards.md R118). -/
def State.resetWith (cfg : Config) : State :=
  { cfg := cfg
    ctrl := { crcslice := false, irqen := false }
    done := false
    error := none
    rstate := .empty
    dataIn := 0
    result := 0
    crc := crcInitial
    ringCount := 0
    ringNodes := 0
    lk := { wrap := false, index := 0, point := 0, node := 0 }
    digest := { d0 := 0, d1 := 0, d2 := 0, d3 := 0 }
    ring := []
    md5 := { chain := md5Iv, buf := [], level := 0, len := 0 }
    latch := none
    script := []
    rdata := none
    epoch := 0 }

/-- The machine right after reset, for the instance of log 2. -/
def State.reset : State := State.resetWith Config.suggested

end Sys2Proof.Machine
end

