-- ==== Sys2Proof/Machine/Ops.lean ====
section
/-! DEFINITION. The operations the meanings share: the two memories (10_state.md R35, R38), recording an error and
returning from one (60_exceptions.md R104, R111), accepting and completing a command (30_encoding.md R63, R104). -/

namespace Sys2Proof.Machine

/-! ### Memory: a list of (address, content) pairs, addresses strictly rising, listing what was written since reset -/

/-- The canonical form: addresses strictly rising. A listed content is one that was written; what an address not
listed reads as is a free value, so no content is left out for equalling it (log 4). -/
def Memory.wf {α : Type} : List (Nat × α) → Bool
  | [] => true
  | [_] => true
  | (a, _) :: (b, y) :: rest => decide (a < b) && Memory.wf ((b, y) :: rest)

/-- The content written at an address, if any was. -/
def Memory.read? {α : Type} : List (Nat × α) → Nat → Option α
  | [], _ => none
  | (a, x) :: rest, i => if a = i then some x else Memory.read? rest i

/-- Writes one address, keeping the canonical form. -/
def Memory.write {α : Type} : List (Nat × α) → Nat → α → List (Nat × α)
  | [], i, v => [(i, v)]
  | (a, x) :: rest, i, v =>
    if i < a then (i, v) :: (a, x) :: rest
    else if a = i then (i, v) :: rest
    else (a, x) :: Memory.write rest i v

/-- What a ring entry that was not written since reset holds (10_state.md R35): a free value. -/
def freeRingEntry (epoch index : Nat) : RingPoint :=
  { point := Config.freeRingPoint epoch index, node := Config.freeRingNode epoch index }

/-- `Ring[i]` (00_scope.md R12, 10_state.md R35). -/
def State.ringEntry (s : State) (i : Nat) : RingPoint := (Memory.read? s.ring i).getD (freeRingEntry s.epoch i)

/-- `MD5.BUF[k]` of a buffer (00_scope.md R12, 10_state.md R38). -/
def bufferByte (epoch : Nat) (buf : List Host.Cell) (k : Nat) : Byte :=
  (Memory.read? buf k).getD (Config.freeMd5Byte epoch k)

/-- `MD5.BUF[k]`. -/
def State.bufByte (s : State) (k : Nat) : Byte := bufferByte s.epoch s.md5.buf k

/-! ### Errors: recording one, and returning from one -/

/-- `RecordError(code)` (60_exceptions.md R104): the error entry. The first error is kept (R107). -/
def State.recordError (s : State) (code : ErrCode) : State :=
  match s.error with
  | none => { s with error := some code }
  | some _ => s

/-- Clearing ERR and ERRCODE: the return from an error (60_exceptions.md R111, 20_memory.md R48). -/
def State.clearError (s : State) : State := { s with error := none }

/-- Clearing DONE (20_memory.md R48). -/
def State.clearDone (s : State) : State := { s with done := false }

/-- Setting DONE (10_state.md R21). -/
def State.setDone (s : State) : State := { s with done := true }

/-! ### Acceptance and completion -/

/-- `STATUS.BUSY`: 1 exactly while a command is pending (10_state.md R20, R40). -/
def State.busy (s : State) : Bool := s.latch.isSome

/-- What acceptance latches with the word `v` (30_encoding.md R63). -/
def State.latchOf (s : State) (v : Word) : Latch :=
  { word := v, opnd := s.dataIn, res := s.result, slice := s.ctrl.crcslice }

/-- Fills the command latch: BUSY becomes 1. -/
def State.setLatch (s : State) (l : Latch) : State := { s with latch := some l }

/-- `AcceptCommand(v)` (30_encoding.md R63): BUSY rejection first (R105), then the illegal word (R106), then the latch. -/
def State.acceptCommand (s : State) (v : Word) : State :=
  if s.busy then s.recordError .busy
  else
    match decode v with
    | .error _ => (s.recordError .illegalCmd).setDone
    | .ok _ => s.setLatch (s.latchOf v)

/-- The end of `Complete()`: BUSY := 0 and DONE := 1 (60_exceptions.md R104). -/
def State.finish (s : State) : State := { s with latch := none, done := true }

/-- `Complete()` (60_exceptions.md R104) around a family rule `body`, which reads its operands from the latch and either
gives the state with its effect or raises an error, having written nothing. -/
def complete (s : State) (body : Latch → Except ErrCode State) : Host.Outcome State Fault Refusal :=
  match s.latch with
  | none => .refused .noPendingCommand
  | some l =>
    match body l with
    | .ok t => .next t.finish
    | .error code => .next (s.recordError code).finish

/-! ### Named writes of registers and engine state -/

/-- `CRC <- v`. -/
def State.setCrc (s : State) (v : Word) : State := { s with crc := v }

/-- `x[RESULT] <- v`. -/
def State.setResult (s : State) (v : Word) : State := { s with result := v }

/-- Writes the MD5 engine's state. -/
def State.setMd5 (s : State) (m : Md5Ctx) : State := { s with md5 := m }

/-- `x[DIGESTj] <- …` for j = 0 to 3. -/
def State.setDigest (s : State) (d : Digest) : State := { s with digest := d }

/-- `x[STATUS].RSTATE <- r`. -/
def State.setRstate (s : State) (r : RState) : State := { s with rstate := r }

/-- `x[RING_NODES] <- zext_32(n)`. -/
def State.setRingNodes (s : State) (n : Half) : State := { s with ringNodes := n }

/-- `x[RING_COUNT] <- c`. -/
def State.setRingCount (s : State) (c : Word) : State := { s with ringCount := c }

/-- `Ring[i] <- (p, k)`. -/
def State.setRingEntry (s : State) (i : Nat) (e : RingPoint) : State := { s with ring := Memory.write s.ring i e }

/-- Writes LK_INDEX, LK_POINT and LK_NODE. -/
def State.setLookup (s : State) (r : Lookup) : State := { s with lk := r }

/-- `x[CTRL] <- c`. -/
def State.setCtrl (s : State) (c : Ctrl) : State := { s with ctrl := c }

/-- `x[DATA_IN] <- v`. -/
def State.setDataIn (s : State) (v : Word) : State := { s with dataIn := v }

/-- Puts the value of a host read on the port (log 5). -/
def State.setRdata (s : State) (v : Word) : State := { s with rdata := some v }

/-- What is left of the schedule (log 1). -/
def State.setScript (s : State) (es : List PortEvent) : State := { s with script := es }

/-- A reset step (70_reset_and_hazards.md R118): every register and engine at its reset value, the latch emptied, the
two memories unspecified anew (their free values are those of the next `epoch`). The instance, the schedule and the
last read value are no state of the block. -/
def State.applyReset (s : State) : State :=
  { State.resetWith s.cfg with script := s.script, rdata := s.rdata, epoch := s.epoch + 1 }

end Sys2Proof.Machine
end

