-- ==== Sys2Proof/Machine/Control.lean ====
section
/-! DEFINITION. The control command (40_control.md). -/

namespace Sys2Proof.Machine

/-- `Exec_NOP(): skip` (40_control.md R70). -/
def execNop (s : State) : Host.Outcome State Fault Refusal := complete s fun _ => .ok s

end Sys2Proof.Machine
end

