-- ==== Sys2Proof/Machine/Operands.lean ====
section
/-! DEFINITION. Operand forms: bytes and little-endian words (00_scope.md R12), the key bytes of an UPDATE
(20_memory.md R49), the query of a lookup (30_encoding.md R61). -/

namespace Sys2Proof.Machine

/-- `LE32(b0, b1, b2, b3) = {b3, b2, b1, b0}` (00_scope.md R12). -/
def le32 (b0 b1 b2 b3 : Byte) : Word := (b3 ++ b2 ++ b1 ++ b0 : BitVec 32)

/-- Byte lane `k` of a word, lane 0 least significant (R12). -/
def lane (v : Word) (k : Nat) : Byte := v.extractLsb' (8 * k) 8

/-- The four bytes of a word, lane 0 first. -/
def leBytes (v : Word) : List Byte := [lane v 0, lane v 1, lane v 2, lane v 3]

/-- `bytes(v, n)`: the first `n` of the four lanes (R12). -/
def bytesOf (v : Word) (n : Nat) : List Byte := (leBytes v).take n

/-- The bytes of a 64-bit value, least significant first (42_md5.md R86: "bitlen[8j+7 : 8j]" for j = 0 to 7). -/
def leBytes64 (v : Dword) : List Byte := (List.range 8).map fun j => v.extractLsb' (8 * j) 8

/-- The query of RING_LOOKUP, from the latch (43_ring.md R97, 30_encoding.md R61). -/
def queryOf (src : QuerySource) (l : Latch) : Word :=
  match src with
  | .data => l.opnd
  | .result => l.res

end Sys2Proof.Machine
end

