-- ==== Sys2Proof/Machine/Crc.lean ====
section
/-! DEFINITION. The CRC-32 ketama hash (41_crc.md): the function of R73 to R75 and the three commands. -/

namespace Sys2Proof.Machine

/-- One bit of `CrcByte` (41_crc.md R73): shift right, and add the reflected polynomial if a 1 left. -/
def crcBit (c : Word) : Word := if c.getLsbD 0 then (c >>> 1) ^^^ 0xEDB88320 else c >>> 1

/-- `CrcByte(c, b)` (R73). -/
def crcByte (c : Word) (b : Byte) : Word := Nat.repeat crcBit 8 (c ^^^ b.setWidth 32)

/-- The accumulator after a list of bytes, in order (R74, R77). -/
def crcBytes (c : Word) (bs : List Byte) : Word := bs.foldl crcByte c

/-- `Crc32(k)` (R74). -/
def crc32 (k : List Byte) : Word := ~~~ (crcBytes crcInitial k)

/-- `Slice(v, slice)` (R75). -/
def crcSlice (v : Word) (slice : Bool) : Word := if slice then (v >>> 16) &&& 0x00007FFF else v

/-- `KetamaHash(k, slice)` (R74). -/
def ketamaHash (k : List Byte) (slice : Bool) : Word := crcSlice (crc32 k) slice

/-- `Exec_CRC_INIT()` (R76). -/
def execCrcInit (s : State) : Host.Outcome State Fault Refusal := complete s fun _ => .ok (s.setCrc crcInitial)

/-- `Exec_CRC_UPDATE(n, opnd)` (R77). -/
def execCrcUpdate (n : Nat) (s : State) : Host.Outcome State Fault Refusal :=
  complete s fun l => .ok (s.setCrc (crcBytes s.crc (bytesOf l.opnd n)))

/-- `Exec_CRC_FINAL(slice)` (R78). -/
def execCrcFinal (s : State) : Host.Outcome State Fault Refusal :=
  complete s fun l => .ok ((s.setResult (crcSlice (~~~ s.crc) l.slice)).setCrc crcInitial)

end Sys2Proof.Machine
end

