-- ==== Sys2Proof/Machine/Md5.lean ====
section
/-! DEFINITION. The MD5 block digest (42_md5.md): the algorithm of R80 to R88 and the three commands. -/

namespace Sys2Proof.Machine

/-! ### The compression function -/

/-- The round function of step `i` (42_md5.md R81). -/
def md5Mix (i : Nat) (x y z : Word) : Word :=
  if i < 16 then (x &&& y) ||| (~~~ x &&& z)
  else if i < 32 then (x &&& z) ||| (y &&& ~~~ z)
  else if i < 48 then x ^^^ y ^^^ z
  else y ^^^ (x ||| ~~~ z)

/-- The additive constants T[0] to T[15] (R82). -/
def md5T0 : List Word :=
  [ 0xD76AA478, 0xE8C7B756, 0x242070DB, 0xC1BDCEEE, 0xF57C0FAF, 0x4787C62A, 0xA8304613, 0xFD469501,
    0x698098D8, 0x8B44F7AF, 0xFFFF5BB1, 0x895CD7BE, 0x6B901122, 0xFD987193, 0xA679438E, 0x49B40821 ]

/-- T[16] to T[31] (R82). -/
def md5T1 : List Word :=
  [ 0xF61E2562, 0xC040B340, 0x265E5A51, 0xE9B6C7AA, 0xD62F105D, 0x02441453, 0xD8A1E681, 0xE7D3FBC8,
    0x21E1CDE6, 0xC33707D6, 0xF4D50D87, 0x455A14ED, 0xA9E3E905, 0xFCEFA3F8, 0x676F02D9, 0x8D2A4C8A ]

/-- T[32] to T[47] (R82). -/
def md5T2 : List Word :=
  [ 0xFFFA3942, 0x8771F681, 0x6D9D6122, 0xFDE5380C, 0xA4BEEA44, 0x4BDECFA9, 0xF6BB4B60, 0xBEBFBC70,
    0x289B7EC6, 0xEAA127FA, 0xD4EF3085, 0x04881D05, 0xD9D4D039, 0xE6DB99E5, 0x1FA27CF8, 0xC4AC5665 ]

/-- T[48] to T[63] (R82). -/
def md5T3 : List Word :=
  [ 0xF4292244, 0x432AFF97, 0xAB9423A7, 0xFC93A039, 0x655B59C3, 0x8F0CCC92, 0xFFEFF47D, 0x85845DD1,
    0x6FA87E4F, 0xFE2CE6E0, 0xA3014314, 0x4E0811A1, 0xF7537E82, 0xBD3AF235, 0x2AD7D2BB, 0xEB86D391 ]

/-- `T[i]` (R82). -/
def md5T (i : Nat) : Word := (md5T0 ++ md5T1 ++ md5T2 ++ md5T3).getD i 0

/-- `S[i]`: "a pattern of four within each group of 16 steps" (R83). -/
def md5S (i : Nat) : Nat :=
  if i < 16 then [7, 12, 17, 22].getD (i % 4) 0
  else if i < 32 then [5, 9, 14, 20].getD (i % 4) 0
  else if i < 48 then [4, 11, 16, 23].getD (i % 4) 0
  else [6, 10, 15, 21].getD (i % 4) 0

/-- `g(i)` (R84). -/
def md5G (i : Nat) : Nat :=
  if i < 16 then i else if i < 32 then (5 * i + 1) % 16 else if i < 48 then (3 * i + 5) % 16 else (7 * i) % 16

/-- `rotl32(a, s)` (00_scope.md R11). -/
def rotl32 (a : Word) (n : Nat) : Word := (a <<< n) ||| (a >>> (32 - n))

/-- `M[k] <- LE32(blk[4k], blk[4k+1], blk[4k+2], blk[4k+3])` for k = 0 to 15 (R85). -/
def md5Words (blk : List Byte) : List Word :=
  (List.range 16).map fun k =>
    le32 (blk.getD (4 * k) 0) (blk.getD (4 * k + 1) 0) (blk.getD (4 * k + 2) 0) (blk.getD (4 * k + 3) 0)

/-- One of the 64 steps of `Compress` on `(a, b, c, d)` (R85). -/
def md5Step (m : List Word) (r : Chain) (i : Nat) : Chain :=
  { a := r.d
    b := r.b + rotl32 (r.a + md5Mix i r.b r.c r.d + md5T i + m.getD (md5G i) 0) (md5S i)
    c := r.b
    d := r.c }

/-- `Compress((A, B, C, D), blk)` (R85). -/
def md5Compress (h : Chain) (blk : List Byte) : Chain :=
  let r := (List.range 64).foldl (md5Step (md5Words blk)) h
  { a := h.a + r.a, b := h.b + r.b, c := h.c + r.c, d := h.d + r.d }

/-! ### Absorption and padding -/

/-- The 64 bytes of the block buffer. -/
def bufferBlock (epoch : Nat) (buf : List Host.Cell) : List Byte := (List.range 64).map (bufferByte epoch buf)

/-- `PutByte(b)` (42_md5.md R86). -/
def md5PutByte (epoch : Nat) (m : Md5Ctx) (b : Byte) : Md5Ctx :=
  let buf := Memory.write m.buf m.level.toNat b
  let level := m.level.toNat + 1
  if level = 64 then { m with chain := md5Compress m.chain (bufferBlock epoch buf), buf := buf, level := 0 }
  else { m with buf := buf, level := BitVec.ofNat 6 level }

/-- `PutByte` of each byte in order. -/
def md5PutBytes (epoch : Nat) (m : Md5Ctx) (bs : List Byte) : Md5Ctx := bs.foldl (md5PutByte epoch) m

/-- `Absorb(b)` (R86). -/
def md5Absorb (epoch : Nat) (m : Md5Ctx) (b : Byte) : Md5Ctx :=
  let m' := md5PutByte epoch m b
  { m' with len := m'.len + 1 }

/-- `Absorb` of each byte in order (R87, R90). -/
def md5AbsorbBytes (epoch : Nat) (m : Md5Ctx) (bs : List Byte) : Md5Ctx := bs.foldl (md5Absorb epoch) m

/-- `while MD5.LEVEL ≠ 56: PutByte(0x00)` (R86), with fuel for the loop. -/
def md5ZeroPad (epoch : Nat) : Nat → Md5Ctx → Md5Ctx
  | 0, m => m
  | fuel + 1, m => if m.level = 56 then m else md5ZeroPad epoch fuel (md5PutByte epoch m 0x00)

/-- `Finish()` up to its return value (R86): the engine state whose chaining words are the digest. LEVEL comes back to
56 within 63 passes of the loop, so a fuel of 64 never runs out (DEDUCED, log 11). -/
def md5Finish (epoch : Nat) (m : Md5Ctx) : Md5Ctx :=
  let bitlen := m.len * 8
  md5PutBytes epoch (md5ZeroPad epoch 64 (md5PutByte epoch m 0x80)) (leBytes64 bitlen)

/-- "return LE bytes of MD5.A, then MD5.B, MD5.C, MD5.D" (R86): the digest `d[0..15]`. -/
def chainBytes (h : Chain) : List Byte := leBytes h.a ++ leBytes h.b ++ leBytes h.c ++ leBytes h.d

/-- `LE32(d[4j], d[4j+1], d[4j+2], d[4j+3])` (R91, 10_state.md R34). -/
def digestWord (d : List Byte) (j : Nat) : Word :=
  le32 (d.getD (4 * j) 0) (d.getD (4 * j + 1) 0) (d.getD (4 * j + 2) 0) (d.getD (4 * j + 3) 0)

/-- The four words of a digest (10_state.md R34). -/
def digestOf (d : List Byte) : Digest :=
  { d0 := digestWord d 0, d1 := digestWord d 1, d2 := digestWord d 2, d3 := digestWord d 3 }

/-- The context of a new key, on the buffer the engine holds: IV, LEVEL 0, LEN 0 (R89). -/
def md5Fresh (buf : List Host.Cell) : Md5Ctx := { chain := md5Iv, buf := buf, level := 0, len := 0 }

/-- `MD5(k)` (R87). The engine starts with nothing written in its buffer, in epoch 0: no byte of a block is read before
it is written, so neither choice shows in the digest. -/
def md5Of (k : List Byte) : List Byte := chainBytes (md5Finish 0 (md5AbsorbBytes 0 (md5Fresh []) k)).chain

/-- `Md5Hash(k)` (R88). -/
def md5Hash (k : List Byte) : Word := digestWord (md5Of k) 0

/-! ### Commands -/

/-- `Exec_MD5_INIT()` (42_md5.md R89). -/
def execMd5Init (s : State) : Host.Outcome State Fault Refusal :=
  complete s fun _ => .ok (s.setMd5 (md5Fresh s.md5.buf))

/-- `Exec_MD5_UPDATE(n, opnd)` (R90). -/
def execMd5Update (n : Nat) (s : State) : Host.Outcome State Fault Refusal :=
  complete s fun l => .ok (s.setMd5 (md5AbsorbBytes s.epoch s.md5 (bytesOf l.opnd n)))

/-- `Exec_MD5_FINAL()` (R91). -/
def execMd5Final (s : State) : Host.Outcome State Fault Refusal :=
  complete s fun _ =>
    let fin := md5Finish s.epoch s.md5
    let dig := digestOf (chainBytes fin.chain)
    .ok (((s.setDigest dig).setResult dig.d0).setMd5 (md5Fresh fin.buf))

end Sys2Proof.Machine
end

