-- ==== Sys2Proof/Machine/Ring.lean ====
section
/-! DEFINITION. The ring-point table and its lookup (43_ring.md): Select (R98) and the four commands. -/

namespace Sys2Proof.Machine

/-- The number of valid entries as an index bound: `C = RING_COUNT` (43_ring.md R98). -/
def State.count (s : State) : Nat := s.ringCount.toNat

/-- `hit[i] = (Ring[i].point ≥ q)`, unsigned (R98). -/
def State.hit (s : State) (q : Word) (i : Nat) : Bool := decide (q ≤ (s.ringEntry i).point)

/-- `Select(q)` (R98): the lowest index that hits and no wrap, or index 0 and wrap. -/
def State.select (s : State) (q : Word) : Nat × Bool :=
  match (List.range s.count).find? (s.hit q) with
  | some i => (i, false)
  | none => (0, true)

/-- `Exec_RING_BEGIN(N)` (R94): "table entries are not cleared" (DEDUCED, log 6: what lies at or beyond RING_COUNT stays). -/
def execRingBegin (nodes : Half) (s : State) : Host.Outcome State Fault Refusal :=
  complete s fun _ =>
    if nodes = 0 then .error .badOperand
    else .ok (((s.setRingNodes nodes).setRingCount 0).setRstate .building)

/-- `Exec_RING_APPEND(k, p)` (R95), its checks in the order written (60_exceptions.md R108). -/
def execRingAppend (node : Half) (s : State) : Host.Outcome State Fault Refusal :=
  complete s fun l =>
    if s.rstate ≠ .building then .error .ringState
    else if s.count = s.cfg.ringDepth then .error .ringFull
    else if s.ringNodes ≤ node then .error .badOperand
    else if 0 < s.count ∧ l.opnd < (s.ringEntry (s.count - 1)).point then .error .ringOrder
    else .ok ((s.setRingEntry s.count { point := l.opnd, node := node }).setRingCount (s.ringCount + 1))

/-- `Exec_RING_COMMIT()` (R96). -/
def execRingCommit (s : State) : Host.Outcome State Fault Refusal :=
  complete s fun _ =>
    if s.rstate ≠ .building then .error .ringState
    else if s.ringCount = 0 then .error .emptyRing
    else .ok (s.setRstate .ready)

/-- What RING_LOOKUP leaves in LK_INDEX, LK_POINT and LK_NODE for the query `q` (R97). -/
def State.lookupOf (s : State) (q : Word) : Lookup :=
  let r := s.select q
  { wrap := r.2, index := BitVec.ofNat 16 r.1, point := (s.ringEntry r.1).point, node := (s.ringEntry r.1).node }

/-- `Exec_RING_LOOKUP(q)` (R97). -/
def execRingLookup (src : QuerySource) (s : State) : Host.Outcome State Fault Refusal :=
  complete s fun l =>
    match s.rstate with
    | .empty => .error .emptyRing
    | .building => .error .ringNotReady
    | .ready => .ok (s.setLookup (s.lookupOf (queryOf src l)))

end Sys2Proof.Machine
end

