-- ==== Sys2Proof/Machine/Dispatch.lean ====
section
/-! DEFINITION. One arm per command: the completion of the pending command (60_exceptions.md R104). -/

namespace Sys2Proof.Machine

def exec (i : Instr) (s : State) : Host.Outcome State Fault Refusal :=
  match i with
  | .nop => Sys2Proof.Machine.execNop s
  | .crcInit => Sys2Proof.Machine.execCrcInit s
  | .crcUpdate n => Sys2Proof.Machine.execCrcUpdate n s
  | .crcFinal => Sys2Proof.Machine.execCrcFinal s
  | .md5Init => Sys2Proof.Machine.execMd5Init s
  | .md5Update n => Sys2Proof.Machine.execMd5Update n s
  | .md5Final => Sys2Proof.Machine.execMd5Final s
  | .ringBegin nodes => Sys2Proof.Machine.execRingBegin nodes s
  | .ringAppend node => Sys2Proof.Machine.execRingAppend node s
  | .ringCommit => Sys2Proof.Machine.execRingCommit s
  | .ringLookup src => Sys2Proof.Machine.execRingLookup src s

end Sys2Proof.Machine
end

