-- ==== Sys2Proof/Machine/Flags.lean ====
section
/-! DEFINITION. The KHG's flags are the STATUS fields (10_state.md R41): their codes, the STATUS word, and `irq`. -/

namespace Sys2Proof.Machine

/-- The value of an error in STATUS.ERRCODE (60_exceptions.md R103). -/
def ErrCode.code : ErrCode → BitVec 4
  | .illegalCmd => 1
  | .busy => 2
  | .emptyRing => 3
  | .ringNotReady => 4
  | .ringState => 5
  | .ringFull => 6
  | .ringOrder => 7
  | .badOperand => 8

/-- The value of STATUS.RSTATE (10_state.md R23). -/
def RState.code : RState → BitVec 2
  | .empty => 0
  | .building => 1
  | .ready => 2

/-- `STATUS.ERR` (10_state.md R22). -/
def State.err (s : State) : Bool := s.error.isSome

/-- `STATUS.ERRCODE` (R22): "While ERR = 0, ERRCODE is 0". -/
def State.errcode (s : State) : BitVec 4 :=
  match s.error with
  | none => 0
  | some e => e.code

/-- The STATUS word (10_state.md R20), from bit 31 down: reserved, MD5BUF [21:16], reserved, RSTATE [9:8],
ERRCODE [7:4], reserved, ERR, DONE, BUSY. -/
def State.statusWord (s : State) : Word :=
  (0#10 ++ s.md5.level ++ 0#6 ++ s.rstate.code ++ s.errcode ++ 0#1 ++ BitVec.ofBool s.err
    ++ BitVec.ofBool s.done ++ BitVec.ofBool s.busy : BitVec 32)

/-- The CTRL word (10_state.md R19). -/
def State.ctrlWord (s : State) : Word :=
  (0#30 ++ BitVec.ofBool s.ctrl.irqen ++ BitVec.ofBool s.ctrl.crcslice : BitVec 32)

/-- `irq = x[CTRL].IRQEN & (x[STATUS].DONE | x[STATUS].ERR)` (60_exceptions.md R109). -/
def State.irq (s : State) : Bool := s.ctrl.irqen && (s.done || s.err)

end Sys2Proof.Machine
end

