-- ==== Sys2Proof/Machine/Port.lean ====
section
/-! DEFINITION. The host port: the register window (10_state.md R16, 20_memory.md R43), a register read (R47, R48) and
a register write (R48). -/

namespace Sys2Proof.Machine

/-- The named registers of the window, and the reserved slots (10_state.md R16). -/
inductive Reg where
  | id
  | cap
  | ctrl
  | status
  | cmd
  | dataIn
  | result
  | crcAcc
  | ringCount
  | ringNodes
  | lkIndex
  | lkPoint
  | lkNode
  | digest0
  | digest1
  | digest2
  | digest3
  | reserved
deriving DecidableEq, Repr

/-- The register at a word slot, the byte offset divided by 4 (R16, 20_memory.md R43). -/
def Reg.ofSlot : Nat → Reg
  | 0 => .id
  | 1 => .cap
  | 2 => .ctrl
  | 3 => .status
  | 4 => .cmd
  | 5 => .dataIn
  | 6 => .result
  | 7 => .crcAcc
  | 8 => .ringCount
  | 9 => .ringNodes
  | 10 => .lkIndex
  | 11 => .lkPoint
  | 12 => .lkNode
  | 16 => .digest0
  | 17 => .digest1
  | 18 => .digest2
  | 19 => .digest3
  | _ => .reserved

/-- `ID` (10_state.md R17). -/
def idValue : Word := 0x4B484701

/-- `CAP`: RING_DEPTH in bits [16:0], bits [31:17] zero (R18). -/
def capValue (c : Config) : Word := (BitVec.ofNat 17 c.ringDepth).setWidth 32

/-- `LK_INDEX`: bit 31 WRAP, bits [30:16] zero, bits [15:0] the index (R31). -/
def lkIndexWord (r : Lookup) : Word := (BitVec.ofBool r.wrap ++ 0#15 ++ r.index : BitVec 32)

/-- The value a host read of a register returns (20_memory.md R48): CMD and reserved slots read 0. -/
def State.readReg (s : State) : Reg → Word
  | .id => idValue
  | .cap => capValue s.cfg
  | .ctrl => s.ctrlWord
  | .status => s.statusWord
  | .cmd => 0
  | .dataIn => s.dataIn
  | .result => s.result
  | .crcAcc => s.crc
  | .ringCount => s.ringCount
  | .ringNodes => s.ringNodes.setWidth 32
  | .lkIndex => lkIndexWord s.lk
  | .lkPoint => s.lk.point
  | .lkNode => s.lk.node.setWidth 32
  | .digest0 => s.digest.d0
  | .digest1 => s.digest.d1
  | .digest2 => s.digest.d2
  | .digest3 => s.digest.d3
  | .reserved => 0

/-- The CTRL fields of a written value, reserved bits dropped (R19, R48). -/
def ctrlOf (v : Word) : Ctrl := { crcslice := v.getLsbD 0, irqen := v.getLsbD 1 }

/-- The W1C write of STATUS (20_memory.md R48): bit 1 clears DONE, bit 2 clears ERR and ERRCODE. -/
def State.writeStatus (s : State) (v : Word) : State :=
  let s1 := if v.getLsbD 1 then s.clearDone else s
  if v.getLsbD 2 then s1.clearError else s1

/-- The effect of a host write to a register (20_memory.md R48): RO and reserved registers ignore it. -/
def State.writeReg (s : State) (r : Reg) (v : Word) : State :=
  match r with
  | .ctrl => s.setCtrl (ctrlOf v)
  | .status => s.writeStatus v
  | .cmd => s.acceptCommand v
  | .dataIn => s.setDataIn v
  | .id => s
  | .cap => s
  | .result => s
  | .crcAcc => s
  | .ringCount => s
  | .ringNodes => s
  | .lkIndex => s
  | .lkPoint => s
  | .lkNode => s
  | .digest0 => s
  | .digest1 => s
  | .digest2 => s
  | .digest3 => s
  | .reserved => s

/-- The register an access reaches, or why it has no step (20_memory.md R43, R44). An access that is wrong in several
ways is refused under the first name that applies here (log 7). -/
def target (c : Config) (addr width : Nat) : Except Refusal Reg :=
  if addr < c.khgBase ∨ c.khgBase + 128 ≤ addr then .error .outsideWindow
  else if width ≠ 4 then .error .accessWidth
  else if (addr - c.khgBase) % 4 ≠ 0 then .error .misalignedAccess
  else .ok (Reg.ofSlot ((addr - c.khgBase) / 4))

/-- A host step (20_memory.md R46): a read puts the register's value on the port and changes nothing else (R47). -/
def hostStep (a : Access) (s : State) : Host.Outcome State Fault Refusal :=
  match a with
  | .read addr width =>
    match target s.cfg addr width with
    | .error r => .refused r
    | .ok r => .next (s.setRdata (s.readReg r))
  | .write addr width v =>
    match target s.cfg addr width with
    | .error r => .refused r
    | .ok r => .next (s.writeReg r v)

end Sys2Proof.Machine
end

