-- ==== Sys2Proof/Machine/Engine.lean ====
section
/-! DEFINITION. The engine's turn, the schedule that orders the agents (00_scope.md R5, log 1), and the placing of a
pending command. -/

namespace Sys2Proof.Machine

/-- The engine's turn: with a command pending, its completion (R5, 60_exceptions.md R104); with none pending there is
no engine step, and the turn passes with nothing changed. -/
def engineStep (s : State) : Host.Outcome State Fault Refusal :=
  match s.latch with
  | none => .next s
  | some l =>
    match decode l.word with
    | .ok i => exec i s
    | .error _ => .fault .latchedWordIllegal

/-- The step that the head of the schedule asks for. With the schedule at its end the engine has the turn, so a pending
command completes (R5: weak fairness) and an idle KHG stays as it is (70_reset_and_hazards.md R119). -/
def runSchedule (s : State) : Host.Outcome State Fault Refusal :=
  match s.script with
  | [] => engineStep s
  | .host a :: es => hostStep a (s.setScript es)
  | .engine :: es => engineStep (s.setScript es)
  | .reset :: es => .next (s.setScript es).applyReset

/-- `s` with `v` pending, latched as acceptance latches it (30_encoding.md R63), and the engine's turn next. -/
def State.placeCommand (s : State) (v : Word) : State :=
  (s.setLatch (s.latchOf v)).setScript (.engine :: s.script)

end Sys2Proof.Machine
end

