-- ==== Sys2Proof/Machine/Step.lean ====
section
/-! DEFINITION. One step of the KHG, and where it takes its next instruction from. -/

namespace Sys2Proof.Machine

/-- One step (00_scope.md R5): a host step, an engine step or a reset step, as the schedule says (log 1). -/
def step (s : State) : Host.Outcome State Fault Refusal := runSchedule s

/-- `s` with the command `w` pending and the engine's turn next: the KHG fetches nothing (R2, R14), and the command
latch is where it takes its next instruction from. -/
def State.withFetchWord (s : State) (nbits w : Nat) : State := s.placeCommand (tableWord nbits w)

end Sys2Proof.Machine
end

