-- ==== Sys2Proof/Machine/Run.lean ====
section
/-! DEFINITION. Runs of steps along the schedule. -/

namespace Sys2Proof.Machine

/-- `k` steps of the KHG (Host.Core.run). -/
abbrev run (k : Nat) (s : State) : Host.Outcome State Fault Refusal := Sys2Proof.core.run k s

/-- The state after running a schedule from `s` to its end, followed by what was scheduled before. -/
def runScript (es : List PortEvent) (s : State) : Host.Outcome State Fault Refusal :=
  run es.length (s.setScript (es ++ s.script))

end Sys2Proof.Machine
end

