-- ==== Sys2Proof/Machine/Procedures.lean ====
section
/-! DEFINITION. The host procedures the spec specifies: the pseudo-instructions of 30_encoding.md R69 and the ring
construction of 43_ring.md R99 to R101, as schedules, and as runs where the host acts on what it reads. They are host
software (00_scope.md R4): the block knows nothing of them, and `step` uses none of them (DESIGN CHOICE, log 10). -/

namespace Sys2Proof.Machine

/-! ### Pseudo-instructions (30_encoding.md R68, R69) -/

/-- `wr` to the register at a byte offset of the window. -/
def wr (c : Config) (offset : Nat) (v : Word) : PortEvent := .host (.write (c.khgBase + offset) 4 v)

/-- `rd` of the register at a byte offset of the window. -/
def rd (c : Config) (offset : Nat) : PortEvent := .host (.read (c.khgBase + offset) 4)

/-- `WAIT`: reads of STATUS until BUSY = 0. `polls` of them see the command still pending; then the engine has its
turn, and one more read sees BUSY = 0. R8 leaves the latency of each command free; that every WAIT of one procedure takes
the same `polls` is the model's choice (DESIGN CHOICE, log 10). -/
def wait (c : Config) (polls : Nat) : List PortEvent :=
  List.replicate polls (rd c 0x0C) ++ [.engine, rd c 0x0C]

/-- `DO c`: the write of CMD, then WAIT. -/
def doCmd (c : Config) (polls : Nat) (i : Instr) : List PortEvent := wr c 0x10 (encode i) :: wait c polls

/-- `LE32(b0, b1, b2, b3)` of up to four bytes, "missing bytes 0" (R69). -/
def chunkWord (bs : List Byte) : Word := le32 (bs.getD 0 0) (bs.getD 1 0) (bs.getD 2 0) (bs.getD 3 0)

/-- The chunks of a key: ⌊L/4⌋ of four bytes, then the rest if any (R60, R69). -/
def chunks : List Byte → List (List Byte)
  | b0 :: b1 :: b2 :: b3 :: rest => [b0, b1, b2, b3] :: chunks rest
  | [] => []
  | rest => [rest]

/-- One chunk of `FEED`: its word to DATA_IN, then the UPDATE command. -/
def feedChunk (c : Config) (polls : Nat) (update : Nat → Instr) (bs : List Byte) : List PortEvent :=
  wr c 0x14 (chunkWord bs) :: doCmd c polls (update bs.length)

/-- `FEED` of a list of chunks, in order (R69; any split of the key is equally valid, R60). -/
def feed (c : Config) (polls : Nat) (update : Nat → Instr) (parts : List (List Byte)) : List PortEvent :=
  parts.flatMap (feedChunk c polls update)

/-- `HASH_KETAMA` of a key split into `parts`: INIT, FEED, FINAL, `rd RESULT` (R69). -/
def hashKetama (c : Config) (polls : Nat) (parts : List (List Byte)) : List PortEvent :=
  doCmd c polls .crcInit ++ feed c polls .crcUpdate parts ++ doCmd c polls .crcFinal ++ [rd c 0x18]

/-- `HASH_MD5` of a key split into `parts` (R69). -/
def hashMd5 (c : Config) (polls : Nat) (parts : List (List Byte)) : List PortEvent :=
  doCmd c polls .md5Init ++ feed c polls .md5Update parts ++ doCmd c polls .md5Final ++ [rd c 0x18]

/-- `rd DIGEST0` to `rd DIGEST3`: the 16 bytes of the digest, word by word (R69). -/
def readDigest (c : Config) : List PortEvent := [rd c 0x40, rd c 0x44, rd c 0x48, rd c 0x4C]

/-- `LOOKUP d` up to its read of STATUS (R69); `runLookup` goes on from what that read returns. -/
def lookup (c : Config) (polls : Nat) (d : Word) : List PortEvent :=
  [wr c 0x14 d] ++ doCmd c polls (.ringLookup .data) ++ [rd c 0x0C]

/-! ### Procedures in which the host acts on what it reads -/

/-- Why the host rejects a build before it issues any command. -/
inductive BuildRefusal where
  /-- Some weight is ≤ 0 (43_ring.md R101). -/
  | invalidWeight
  /-- The number of nodes is no operand of RING_BEGIN (30_encoding.md R68; DESIGN CHOICE, log 12). -/
  | nodeCount
  /-- More points than RING_DEPTH: "the host should check the total before it begins" (R100). -/
  | tooManyPoints
deriving DecidableEq, Repr

/-- How a host procedure ends, and the state it leaves. -/
inductive HostEnd where
  /-- It went through to its last step. -/
  | finished (t : State)
  /-- STATUS read back ERR = 1, with this ERRCODE; the host issues nothing after that read. -/
  | failed (errcode : BitVec 4) (t : State)
  /-- The host issued nothing at all. -/
  | rejected (why : BuildRefusal) (t : State)
  /-- A step of it answered no next state. -/
  | stuck
deriving DecidableEq, Repr

/-- Goes on from where a procedure finished; one that did not finish ends as it ended. -/
def HostEnd.andThen (e : HostEnd) (f : State → HostEnd) : HostEnd :=
  match e with
  | .finished t => f t
  | .failed c t => .failed c t
  | .rejected why t => .rejected why t
  | .stuck => .stuck

/-- Runs a schedule as part of a host procedure. -/
def runHost (es : List PortEvent) (s : State) : HostEnd :=
  match runScript es s with
  | .next t => .finished t
  | .fault _ => .stuck
  | .refused _ => .stuck

/-- The host's check of STATUS.ERR (R69, 43_ring.md R100) on the STATUS value that it read last. -/
def checkErr (t : State) : HostEnd :=
  match t.rdata with
  | none => .finished t
  | some v => if v.getLsbD 2 then .failed (v.extractLsb' 4 4) t else .finished t

/-- Runs a schedule that ends in a read of STATUS, and checks ERR. -/
def runChecked (es : List PortEvent) (s : State) : HostEnd := (runHost es s).andThen checkErr

/-- `LOOKUP d` (R69): "If ERR = 1, the lookup failed with the recorded ERRCODE. Otherwise, rd LK_NODE." -/
def runLookup (polls : Nat) (d : Word) (s : State) : HostEnd :=
  (runChecked (lookup s.cfg polls d) s).andThen (runHost [rd s.cfg 0x30])

/-! ### Ring construction (43_ring.md R99 to R101) -/

/-- The decimal digits of `n`, most significant first, before `acc`; `fuel` bounds their number (log 11). -/
def decimalDigits : Nat → Nat → List Byte → List Byte
  | 0, _, acc => acc
  | fuel + 1, n, acc =>
    let acc' := BitVec.ofNat 8 (0x30 + n % 10) :: acc
    if n / 10 = 0 then acc' else decimalDigits fuel (n / 10) acc'

/-- `dec(i)`: "the ASCII decimal form of i with no sign and no leading zeros" (R99). -/
def dec (i : Nat) : List Byte := decimalDigits (i + 1) i []

/-- The key of digest `i` of a node: `id ++ "-" ++ dec(i)`, "-" being the byte 0x2D (R99). -/
def pointKey (id : List Byte) (i : Nat) : List Byte := id ++ [0x2D] ++ dec i

/-- The points `P(n, i, j)` for j = 0 to 3, owned by node `n` (R99). The digest is taken from `md5Of`, with no step of the
block; a host may as well run `hashMd5` and `readDigest` on the KHG (DESIGN CHOICE, log 13). -/
def digestPoints (n : Half) (id : List Byte) (i : Nat) : List RingPoint :=
  (List.range 4).map fun j => { point := digestWord (md5Of (pointKey id i)) j, node := n }

/-- The points of one node of weight `w`: i = 0 to 40·w − 1 (R99, 90_conflicts.md C3). -/
def nodePoints (n : Half) (id : List Byte) (w : Nat) : List RingPoint :=
  (List.range (40 * w)).flatMap (digestPoints n id)

/-- A node of the caller's list: its identifier's bytes and its weight (R99). -/
structure HostNode where
  id : List Byte
  weight : Int
deriving DecidableEq, Repr

/-- All points in generation order, the first node of the list having index `n` (R99). -/
def generatePoints : Nat → List HostNode → List RingPoint
  | _, [] => []
  | n, nd :: rest => nodePoints (BitVec.ofNat 16 n) nd.id nd.weight.toNat ++ generatePoints (n + 1) rest

/-- Puts a point before the first one that is not smaller, so before its equals. -/
def insertPoint (p : RingPoint) : List RingPoint → List RingPoint
  | [] => [p]
  | q :: rest => if p.point ≤ q.point then p :: q :: rest else q :: insertPoint p rest

/-- The stable ascending sort by point value (R100): later points are inserted first, so equal points keep their order. -/
def sortPoints (ps : List RingPoint) : List RingPoint := ps.foldr insertPoint []

/-- One point of the load: DATA_IN, then RING_APPEND (R100). -/
def loadPoint (c : Config) (polls : Nat) (p : RingPoint) : List PortEvent :=
  wr c 0x14 p.point :: doCmd c polls (.ringAppend p.node)

/-- The load of a sorted point list: RING_BEGIN, the appends, RING_COMMIT (R100). This is the whole schedule, which the
host issues when no check of ERR stops it; `runLoad` is the load with its checks. -/
def loadRing (c : Config) (polls : Nat) (nodes : Half) (ps : List RingPoint) : List PortEvent :=
  doCmd c polls (.ringBegin nodes) ++ ps.flatMap (loadPoint c polls) ++ doCmd c polls .ringCommit

/-- The appends of a load, ERR checked after each (R100): on an error the build is abandoned, and nothing follows. -/
def runAppends (polls : Nat) : List RingPoint → State → HostEnd
  | [], s => .finished s
  | p :: rest, s => (runChecked (loadPoint s.cfg polls p) s).andThen (runAppends polls rest)

/-- The load of a sorted point list, "After each command the host checks STATUS.ERR" (R100). -/
def runLoad (polls : Nat) (nodes : Half) (ps : List RingPoint) (s : State) : HostEnd :=
  ((runChecked (doCmd s.cfg polls (.ringBegin nodes)) s).andThen (runAppends polls ps)).andThen fun t =>
    runChecked (doCmd t.cfg polls .ringCommit) t

/-- What the host makes of a node list before it issues any command: the sorted points, or why it rejects the build. A
weight ≤ 0 rejects it (R101). So does a number of nodes outside 1 to 65535: "An operand outside its range is not
assemblable" (30_encoding.md R68), and what a host does then is the model's choice (DESIGN CHOICE, log 12). So does a
total above RING_DEPTH (R100), which CAP reports (10_state.md R18). -/
def planBuild (c : Config) (nodes : List HostNode) : Except BuildRefusal (List RingPoint) :=
  if nodes.any fun nd => decide (nd.weight ≤ 0) then .error .invalidWeight
  else if nodes.length = 0 ∨ 65535 < nodes.length then .error .nodeCount
  else if c.ringDepth < (generatePoints 0 nodes).length then .error .tooManyPoints
  else .ok (sortPoints (generatePoints 0 nodes))

/-- The host's `build` (R99 to R101): a rejected build "issues no RING_BEGIN, and leaves the previous ring, if any, in
place" (R101); any other is loaded. The rejections that R101 does not name are the model's choice (log 12),
and so is that the points come from no hash command on the block: DIGESTj, RESULT and the MD5 context stay as they were
(log 13). -/
def buildRing (polls : Nat) (nodes : List HostNode) (s : State) : HostEnd :=
  match planBuild s.cfg nodes with
  | .error why => .rejected why s
  | .ok ps => runLoad polls (BitVec.ofNat 16 nodes.length) ps s

end Sys2Proof.Machine
end

