-- ==== Sys2Proof/Safety.lean ====
section
/-! DEFINITION. What a safe run is: the invariant of the KHG, and the host accesses that have a step. -/

namespace Sys2Proof.Machine

/-- The invariant of every state of the block, from the spec's statements about all states. -/
structure State.Inv (s : State) : Prop where
  /-- The instance's parameters are legal (93_implementation_defined.md section 1). -/
  cfgLegal : s.cfg.legal = true
  /-- RING_COUNT is "from 0 to RING_DEPTH" (10_state.md R29). -/
  countLe : s.count ≤ s.cfg.ringDepth
  /-- The ring memory is in canonical form. -/
  ringWf : Memory.wf s.ring = true
  /-- Only entries of the table are written (10_state.md R35). -/
  ringInTable : ∀ e ∈ s.ring, e.1 < s.cfg.ringDepth
  /-- Every valid entry has been written (R35). -/
  ringWritten : ∀ k, k < s.count → (Memory.read? s.ring k).isSome = true
  /-- "the valid entries satisfy Ring[k].point ≤ Ring[k+1].point" (R35). -/
  ringSorted : ∀ k, k + 1 < s.count → (s.ringEntry k).point ≤ (s.ringEntry (k + 1)).point
  /-- "and Ring[k].node < RING_NODES" (R35). -/
  ringNodeValid : ∀ k, k < s.count → (s.ringEntry k).node < s.ringNodes
  /-- An EMPTY ring has no entry and admits no node (R29, R30, 43_ring.md R93, R94). -/
  emptyHasNone : s.rstate = .empty → s.ringCount = 0 ∧ s.ringNodes = 0
  /-- A ring that was begun has a node (43_ring.md R94). -/
  begunHasNode : s.rstate ≠ .empty → s.ringNodes ≠ 0
  /-- A READY ring has an entry (43_ring.md R96). -/
  readyHasEntry : s.rstate = .ready → 0 < s.count
  /-- LK_INDEX names an entry of the table (10_state.md R31, R97). -/
  lkInTable : s.lk.index.toNat < s.cfg.ringDepth
  /-- The MD5 buffer is in canonical form. -/
  bufWf : Memory.wf s.md5.buf = true
  /-- Only the 64 bytes of the buffer are written (10_state.md R38). -/
  bufInBlock : ∀ e ∈ s.md5.buf, e.1 < 64
  /-- "MD5.BUF[0..LEVEL-1] hold message bytes" (R38): each has been written. -/
  bufWritten : ∀ k, k < s.md5.level.toNat → (Memory.read? s.md5.buf k).isSome = true
  /-- The latch holds a decoded word (30_encoding.md R63). -/
  latchLegal : ∀ l, s.latch = some l → ∃ i, decode l.word = .ok i

/-- A host access that has a step: 4 bytes wide, aligned, inside the window (20_memory.md R43, R44). -/
def Access.legal (c : Config) : Access → Bool
  | .read addr width => decide (width = 4) && decide (c.khgBase ≤ addr) && decide (addr < c.khgBase + 128)
      && decide ((addr - c.khgBase) % 4 = 0)
  | .write addr width _ => decide (width = 4) && decide (c.khgBase ≤ addr) && decide (addr < c.khgBase + 128)
      && decide ((addr - c.khgBase) % 4 = 0)

/-- A schedule entry that has a step. -/
def PortEvent.legal (c : Config) : PortEvent → Bool
  | .host a => a.legal c
  | .engine => true
  | .reset => true

end Sys2Proof.Machine
end

