-- ==== Sys2Proof/Certificates/Slice0/Obligations.lean ====
section
/-! DEFINITION. The statements about the KHG, in the order of OBLIGATIONS.json.

Where a statement gives the next state as `s` with named fields changed, it also keeps the fields that it does not name:
the model's own (`script`, `rdata`, `epoch`: logs 1, 5 and 4), and the cells at or beyond RING_COUNT and at or above LEVEL
(log 6). For these, keeping them is the model's choice. -/

open Sys2Proof Sys2Proof.Machine

namespace Sys2Proof.Spec

/-! ### What the statements are written with: the spec's own tables and procedures, independent of the meanings -/

/-- The assigned values of OP (30_encoding.md R66). -/
def assignedOps : List Byte := [0x00, 0x01, 0x02, 0x03, 0x10, 0x11, 0x12, 0x20, 0x21, 0x22, 0x23]

/-- The bits of the fields a command uses, by its OP (30_encoding.md R65): OP always, NM1 for the UPDATE commands, SRC
for RING_LOOKUP, IMM16 for RING_BEGIN and RING_APPEND. -/
def usedBits (op : Byte) : Word :=
  if op = 0x02 ∨ op = 0x11 then 0x000003FF
  else if op = 0x23 then 0x000010FF
  else if op = 0x20 ∨ op = 0x21 then 0xFFFF00FF
  else 0x000000FF

/-- The number that ERRCODE shows (60_exceptions.md R103); 0 while no error is recorded (10_state.md R22). -/
def errorNumber : Option ErrCode → Nat
  | none => 0
  | some .illegalCmd => 1
  | some .busy => 2
  | some .emptyRing => 3
  | some .ringNotReady => 4
  | some .ringState => 5
  | some .ringFull => 6
  | some .ringOrder => 7
  | some .badOperand => 8

/-- The STATUS word as a sum of its fields at their places (10_state.md R20). -/
def statusSum (s : State) : Word :=
  BitVec.ofNat 32 ((if s.latch.isSome then 1 else 0) + (if s.done then 2 else 0) + (if s.error.isSome then 4 else 0)
    + 16 * errorNumber s.error
    + 256 * (match s.rstate with | .empty => 0 | .building => 1 | .ready => 2)
    + 65536 * s.md5.level.toNat)

/-- What a read of each of the 32 word offsets of the window returns (10_state.md R16 to R34, 20_memory.md R48). -/
def windowValues (s : State) : List (Nat × Word) :=
  [ (0x00, 0x4B484701), (0x04, BitVec.ofNat 32 s.cfg.ringDepth),
    (0x08, BitVec.ofNat 32 ((if s.ctrl.crcslice then 1 else 0) + (if s.ctrl.irqen then 2 else 0))),
    (0x0C, statusSum s), (0x10, 0), (0x14, s.dataIn), (0x18, s.result), (0x1C, s.crc),
    (0x20, s.ringCount), (0x24, BitVec.ofNat 32 s.ringNodes.toNat),
    (0x28, BitVec.ofNat 32 ((if s.lk.wrap then 0x80000000 else 0) + s.lk.index.toNat)),
    (0x2C, s.lk.point), (0x30, BitVec.ofNat 32 s.lk.node.toNat), (0x34, 0), (0x38, 0), (0x3C, 0),
    (0x40, s.digest.d0), (0x44, s.digest.d1), (0x48, s.digest.d2), (0x4C, s.digest.d3) ]
  ++ [ (0x50, 0), (0x54, 0), (0x58, 0), (0x5C, 0), (0x60, 0), (0x64, 0), (0x68, 0), (0x6C, 0), (0x70, 0), (0x74, 0),
    (0x78, 0), (0x7C, 0) ]

/-- The reset value of every register and engine (70_reset_and_hazards.md R118, 10_state.md R16 to R40); nothing about
the two memories, whose content is unspecified. -/
def AtReset (t : State) : Prop :=
  t.ctrl.crcslice = false ∧ t.ctrl.irqen = false ∧ t.latch = none ∧ t.done = false ∧ t.error = none ∧
  t.rstate = .empty ∧ t.dataIn = 0 ∧ t.result = 0 ∧ t.crc = 0xFFFFFFFF ∧ t.ringCount = 0 ∧ t.ringNodes = 0 ∧
  t.lk = { wrap := false, index := 0, point := 0, node := 0 } ∧ t.digest = { d0 := 0, d1 := 0, d2 := 0, d3 := 0 } ∧
  t.md5.chain = { a := 0x67452301, b := 0xEFCDAB89, c := 0x98BADCFE, d := 0x10325476 } ∧ t.md5.level = 0 ∧
  t.md5.len = 0 ∧ t.irq = false ∧ t.statusWord = 0 ∧ t.ctrlWord = 0 ∧ t.readReg .id = 0x4B484701

/-- The lanes of `opnd` that an UPDATE of `n` bytes consumes, in order (20_memory.md R49). -/
def lanes (opnd : Word) (n : Nat) : List Byte :=
  [opnd.extractLsb' 0 8, opnd.extractLsb' 8 8, opnd.extractLsb' 16 8, opnd.extractLsb' 24 8].take n

/-- The checks of RING_APPEND in their order (60_exceptions.md R103, R108). -/
def appendError (s : State) (l : Latch) (node : Half) : Option ErrCode :=
  if s.rstate ≠ .building then some .ringState
  else if s.ringCount.toNat = s.cfg.ringDepth then some .ringFull
  else if s.ringNodes.toNat ≤ node.toNat then some .badOperand
  else if 0 < s.ringCount.toNat ∧ l.opnd.toNat < (s.ringEntry (s.ringCount.toNat - 1)).point.toNat then some .ringOrder
  else none

/-- The checks of RING_COMMIT in their order (R103, R108). -/
def commitError (s : State) : Option ErrCode :=
  if s.rstate ≠ .building then some .ringState else if s.ringCount.toNat = 0 then some .emptyRing else none

/-- The checks of RING_LOOKUP in their order (R103, R108). -/
def lookupError (s : State) : Option ErrCode :=
  if s.rstate = .empty then some .emptyRing else if s.rstate = .building then some .ringNotReady else none

/-- The error a command raises at completion, if any (60_exceptions.md R103, R108). -/
def raises (s : State) (l : Latch) : Instr → Option ErrCode
  | .nop => none
  | .crcInit => none
  | .crcUpdate _ => none
  | .crcFinal => none
  | .md5Init => none
  | .md5Update _ => none
  | .md5Final => none
  | .ringBegin nodes => if nodes = 0 then some .badOperand else none
  | .ringAppend node => appendError s l node
  | .ringCommit => commitError s
  | .ringLookup _ => lookupError s

/-- What a command that raises no error writes, before BUSY and DONE (60_exceptions.md R104): the pseudocode of
41_crc.md R76 to R78, 42_md5.md R89 to R91 and 43_ring.md R94 to R98. -/
def effect (s : State) (l : Latch) : Instr → State
  | .nop => s
  | .crcInit => { s with crc := 0xFFFFFFFF }
  | .crcUpdate n => { s with crc := (lanes l.opnd n).foldl crcByte s.crc }
  | .crcFinal =>
    { s with
      result := if l.slice then ((~~~ s.crc) >>> 16) &&& 0x00007FFF else ~~~ s.crc
      crc := 0xFFFFFFFF }
  | .md5Init =>
    { s with md5 := { s.md5 with
        chain := { a := 0x67452301, b := 0xEFCDAB89, c := 0x98BADCFE, d := 0x10325476 }, level := 0, len := 0 } }
  | .md5Update n => { s with md5 := (lanes l.opnd n).foldl (md5Absorb s.epoch) s.md5 }
  | .md5Final =>
    let fin := md5Finish s.epoch s.md5
    { s with
      digest := { d0 := fin.chain.a, d1 := fin.chain.b, d2 := fin.chain.c, d3 := fin.chain.d }
      result := fin.chain.a
      md5 := { fin with
        chain := { a := 0x67452301, b := 0xEFCDAB89, c := 0x98BADCFE, d := 0x10325476 }, level := 0, len := 0 } }
  | .ringBegin nodes => { s with ringNodes := nodes, ringCount := 0, rstate := .building }
  | .ringAppend node =>
    { s with
      ring := Memory.write s.ring s.ringCount.toNat { point := l.opnd, node := node }
      ringCount := s.ringCount + 1 }
  | .ringCommit => { s with rstate := .ready }
  | .ringLookup src =>
    let q := match src with | .data => l.opnd | .result => l.res
    let hit := (List.range s.ringCount.toNat).find? fun i => decide (q.toNat ≤ (s.ringEntry i).point.toNat)
    let i := hit.getD 0
    { s with lk := { wrap := hit.isNone, index := BitVec.ofNat 16 i, point := (s.ringEntry i).point
                     node := (s.ringEntry i).node } }

/-- The number of points of a node list, 160 for each unit of weight (43_ring.md R99). -/
def totalPoints (nodes : List HostNode) : Nat := (nodes.map fun nd => 160 * nd.weight.toNat).sum

/-- The head of the schedule gives the engine its turn: explicitly, or with the schedule at its end. -/
def engineTurn (s : State) : Prop := s.script = [] ∨ ∃ es, s.script = .engine :: es

/-- The head of the schedule is a reset. -/
def resetTurn (s : State) : Prop := ∃ es, s.script = .reset :: es

/-- The head of the schedule is a host write of `v` at a byte offset of the window. -/
def writeTurn (s : State) (offset : Nat) (v : Word) : Prop :=
  ∃ es, s.script = .host (.write (s.cfg.khgBase + offset) 4 v) :: es

/-- The lower-bound binary search of `[lo, hi)` for the first index whose point is at least `q` (43_ring.md R98). -/
def lowerBound (point : Nat → Word) (q : Word) : Nat → Nat → Nat → Nat
  | 0, lo, _ => lo
  | fuel + 1, lo, hi =>
    if lo < hi then
      let mid := (lo + hi) / 2
      if q ≤ point mid then lowerBound point q fuel lo mid else lowerBound point q fuel (mid + 1) hi
    else lo

/-- The padded message of a key: 0x80, zeros to 56 modulo 64, the bit length modulo 2^64, little-endian (42_md5.md R86). -/
def paddedMessage (k : List Byte) : List Byte :=
  k ++ [0x80] ++ List.replicate ((119 - k.length % 64) % 64) 0x00
    ++ (List.range 8).map fun j => (BitVec.ofNat 64 (8 * k.length)).extractLsb' (8 * j) 8

/-- Block `i` of a padded message. -/
def messageBlock (msg : List Byte) (i : Nat) : List Byte := (msg.drop (64 * i)).take 64

/-- The bytes of MD5.BUF that hold message bytes (10_state.md R38). -/
def heldBytes (epoch : Nat) (m : Md5Ctx) : List Byte := (List.range m.level.toNat).map (bufferByte epoch m.buf)

end Sys2Proof.Spec

open Sys2Proof.Spec

/-! ### Encoding -/

/-- Every well-formed instruction is read back from its own word, whatever its operands (30_encoding.md sections 1 and 3). -/
def Obligations.DecodeOfEncode : Prop := ∀ i : Instr, i.wellFormed = true → decode (encode i) = .ok i

/-- A word that decodes is the word of the instruction it decodes to: no bit of it is dropped (30_encoding.md section 3). -/
def Obligations.EncodeOfDecode : Prop :=
  ∀ (v : Word) (i : Instr), decode v = .ok i → encode i = v ∧ i.wellFormed = true

/-- 30_encoding.md R64: the row of the table that matches is unique, and decoding follows it. -/
def Obligations.DecodeFollowsTheUniqueRow : Prop :=
  (∀ (v : Word) (r : OpcodeRow), r ∈ opcodeTable → v &&& r.mask = r.bits → decode v = .ok (r.instr v)) ∧
  (∀ v : Word, (∀ r ∈ opcodeTable, v &&& r.mask ≠ r.bits) → ∃ e, decode v = .error e) ∧
  (∀ (v : Word) (j k : Nat) (hj : j < opcodeTable.length) (hk : k < opcodeTable.length),
    v &&& opcodeTable[j].mask = opcodeTable[j].bits → v &&& opcodeTable[k].mask = opcodeTable[k].bits → j = k) ∧
  (∀ r ∈ opcodeTable, r.mask &&& 0xFF = 0xFF) ∧
  (opcodeTable.map fun r => fieldOp r.bits).Nodup

/-- The two cases of an illegal word (30_encoding.md section 2), and no third. -/
def Obligations.IllegalWordsAreTheTwoCases : Prop :=
  ∀ v : Word,
    (decode v = .error .unassignedOp ↔ v.extractLsb' 0 8 ∉ assignedOps) ∧
    (decode v = .error .unusedBitSet ↔
      v.extractLsb' 0 8 ∈ assignedOps ∧ v &&& ~~~ usedBits (v.extractLsb' 0 8) ≠ 0)

/-- Words written out from the table of 30_encoding.md section 3 decode to the commands they stand for, one of each
family and one illegal word of each kind. -/
def Obligations.SampleWordsDecode : Prop :=
  decode 0b00000000000000000000000000000000#32 = .ok .nop ∧
  decode 0b00000000000000000000001100000010#32 = .ok (.crcUpdate 4) ∧
  decode 0b00000000000000000000000100010001#32 = .ok (.md5Update 2) ∧
  decode 0b00000000000000110000000000100000#32 = .ok (.ringBegin 3) ∧
  decode 0b10000000000000010000000000100001#32 = .ok (.ringAppend 0x8001) ∧
  decode 0b00000000000000000001000000100011#32 = .ok (.ringLookup .result) ∧
  decode 0b00000000000000000000000000000100#32 = .error .unassignedOp ∧
  decode 0b00000000000000000000010000000010#32 = .error .unusedBitSet

/-! ### Steps and the host port -/

/-- A step with a pending command and the engine's turn is `exec` of the decoded command; around it, the step only takes
the turn off the schedule (the schedule is the model's form of R5's free order: log 1). -/
def Obligations.StepRunsThePendingCommand : Prop :=
  ∀ (s : State) (l : Latch) (i : Instr), s.latch = some l → decode l.word = .ok i →
    (s.script = [] → step s = exec i s) ∧
    (∀ es, s.script = .engine :: es → step s = exec i (s.setScript es))

/-- The next step of `withFetchWord` runs the placed instruction, its operands latched as acceptance latches them. Both
the placing, which no host step does, and the engine turn it schedules are the model's choice (log 1). -/
def Obligations.PlacedWordRunsNext : Prop :=
  ∀ (s : State) (i : Instr), i.wellFormed = true →
    step (s.withFetchWord 32 (encode i).toNat) =
      exec i { s with latch := some { word := encode i, opnd := s.dataIn, res := s.result, slice := s.ctrl.crcslice } }

/-- 20_memory.md R48 and R47: what a host write does, by its target, and what a host read returns; a read changes
nothing (but the model's own schedule and record of the value returned, logs 1 and 5). -/
def Obligations.RegisterAccessEffects : Prop :=
  ∀ (s : State) (es : List PortEvent), s.cfg.legal = true →
    (∀ off v, (off, v) ∈ windowValues s → s.script = .host (.read (s.cfg.khgBase + off) 4) :: es →
      step s = .next { s with script := es, rdata := some v }) ∧
    (∀ v, s.script = .host (.write (s.cfg.khgBase + 0x08) 4 v) :: es →
      step s = .next { s with script := es, ctrl := { crcslice := v.getLsbD 0, irqen := v.getLsbD 1 } }) ∧
    (∀ v, s.script = .host (.write (s.cfg.khgBase + 0x14) 4 v) :: es →
      step s = .next { s with script := es, dataIn := v }) ∧
    (∀ v, s.script = .host (.write (s.cfg.khgBase + 0x0C) 4 v) :: es →
      step s = .next { s with
        script := es
        done := if v.getLsbD 1 then false else s.done
        error := if v.getLsbD 2 then none else s.error }) ∧
    (∀ v, s.script = .host (.write (s.cfg.khgBase + 0x10) 4 v) :: es →
      step s = .next ({ s with script := es }.acceptCommand v)) ∧
    (∀ slot v, slot < 32 → slot ∉ [2, 3, 4, 5] → s.script = .host (.write (s.cfg.khgBase + 4 * slot) 4 v) :: es →
      step s = .next { s with script := es })

/-- 20_memory.md R44: a host access has a step exactly when it is 4 bytes wide, aligned and in the window; every other
is refused, under a name that says why. -/
def Obligations.OnlyAlignedWordAccessesHaveAStep : Prop :=
  ∀ (s : State) (addr width : Nat) (v : Word) (es : List PortEvent),
    s.script = .host (.read addr width) :: es ∨ s.script = .host (.write addr width v) :: es →
    ((∃ t, step s = .next t) ↔
      width = 4 ∧ (addr - s.cfg.khgBase) % 4 = 0 ∧ s.cfg.khgBase ≤ addr ∧ addr < s.cfg.khgBase + 128) ∧
    ((¬ ∃ t, step s = .next t) →
      (step s = .refused .outsideWindow ∧ (addr < s.cfg.khgBase ∨ s.cfg.khgBase + 128 ≤ addr)) ∨
      (step s = .refused .accessWidth ∧ width ≠ 4) ∨
      (step s = .refused .misalignedAccess ∧ (addr - s.cfg.khgBase) % 4 ≠ 0))

/-- 30_encoding.md R63, with 60_exceptions.md R105 and R106: the three ends of a CMD write. -/
def Obligations.CommandAcceptance : Prop :=
  ∀ (s : State) (v : Word) (es : List PortEvent), s.script = .host (.write (s.cfg.khgBase + 0x10) 4 v) :: es →
    (s.latch.isSome = true → step s = .next { s with script := es, error := s.error.or (some .busy) }) ∧
    (s.latch = none → (∃ e, decode v = .error e) →
      step s = .next { s with script := es, error := s.error.or (some .illegalCmd), done := true }) ∧
    (s.latch = none → (∃ i, decode v = .ok i) →
      step s = .next { s with
        script := es
        latch := some { word := v, opnd := s.dataIn, res := s.result, slice := s.ctrl.crcslice } })

/-- With nothing pending the engine has no step: the KHG stays as it is (70_reset_and_hazards.md section 1; the passing
of an unused turn is the model's choice, log 1). -/
def Obligations.IdleStaysAsItIs : Prop :=
  ∀ s : State, s.latch = none →
    (s.script = [] → step s = .next s) ∧ (∀ es, s.script = .engine :: es → step s = .next { s with script := es })

/-! ### NOP and the CRC commands -/

/-- 40_control.md R70: NOP, its one word (any other word of OP 0 is illegal), and no effect beyond BUSY := 0 and
DONE := 1. -/
def Obligations.NopOnlyCompletes : Prop :=
  (∀ v : Word, decode v = .ok .nop ↔ v = 0x00000000) ∧
  (∀ v : Word, v.extractLsb' 0 8 = 0x00 → v ≠ 0x00000000 → decode v = .error .unusedBitSet) ∧
  ∀ (s : State) (l : Latch), s.latch = some l → exec .nop s = .next { s with latch := none, done := true }

/-- 41_crc.md R76: CRC_INIT. -/
def Obligations.CrcInitSetsTheInitialValue : Prop :=
  (∀ v : Word, decode v = .ok .crcInit ↔ v = 0x00000001) ∧
  ∀ (s : State) (l : Latch), s.latch = some l →
    exec .crcInit s = .next { s with crc := 0xFFFFFFFF, latch := none, done := true }

/-- 41_crc.md R77: CRC_UPDATE n runs the first n lanes of the latched operand through CrcByte, lane 0 first. -/
def Obligations.CrcUpdateConsumesTheLanes : Prop :=
  (∀ (v : Word) (n : Nat), decode v = .ok (.crcUpdate n) ↔
    1 ≤ n ∧ n ≤ 4 ∧ v = 0x00000002 ||| (BitVec.ofNat 32 (n - 1) <<< 8)) ∧
  (∀ v : Word, v.extractLsb' 0 8 = 0x02 → v.extractLsb' 10 22 ≠ 0 → decode v = .error .unusedBitSet) ∧
  ∀ (s : State) (l : Latch) (n : Nat), s.latch = some l →
    exec (.crcUpdate n) s =
      .next { s with crc := (lanes l.opnd n).foldl crcByte s.crc, latch := none, done := true }

/-- 41_crc.md R78 and R75: CRC_FINAL publishes the complement, cut by the latched slice, and starts the next key. -/
def Obligations.CrcFinalPublishesTheSlice : Prop :=
  (∀ v : Word, decode v = .ok .crcFinal ↔ v = 0x00000003) ∧
  ∀ (s : State) (l : Latch), s.latch = some l →
    (l.slice = false →
      exec .crcFinal s = .next { s with result := ~~~ s.crc, crc := 0xFFFFFFFF, latch := none, done := true }) ∧
    (l.slice = true →
      exec .crcFinal s = .next { s with
        result := ((~~~ s.crc) >>> 16) &&& 0x00007FFF, crc := 0xFFFFFFFF, latch := none, done := true })

/-- CrcByte is the table-driven byte step (41_crc.md section 1): the high 24 bits shift down, and the low byte selects
an entry of the table of CrcByte on a single byte. -/
def Obligations.CrcByteIsTableDriven : Prop :=
  ∀ (c : Word) (b : Byte), crcByte c b = (c >>> 8) ^^^ crcByte 0 (c.setWidth 8 ^^^ b)

/-- The chunks that FEED takes from a key (30_encoding.md sections 1 and 4): together the key, each of 1 to 4 bytes,
⌊L/4⌋ of four bytes and then the rest, if any. -/
def Obligations.ChunksSplitTheKey : Prop :=
  ∀ k : List Byte,
    (chunks k).flatten = k ∧ (∀ p ∈ chunks k, 1 ≤ p.length ∧ p.length ≤ 4) ∧
    (chunks k).length = (k.length + 3) / 4 ∧
    ∀ (j : Nat) (h : j < (chunks k).length), j < k.length / 4 → ((chunks k)[j]).length = 4

/-- The ketama hash (41_crc.md section 3): the whole host sequence CRC_INIT, CRC_UPDATEs of any split, CRC_FINAL, from any
idle state. The form of the sequence, with one number of polls for all its WAITs, is the model's choice (log 10), as are
`rdata`, its record of the last read (log 5), and that entries at or beyond RING_COUNT stay as they were (log 6). -/
def Obligations.KetamaHashOfAnySplit : Prop :=
  (∀ (s : State) (polls : Nat) (parts : List (List Byte)), s.latch = none →
    (∀ p ∈ parts, 1 ≤ p.length ∧ p.length ≤ 4) →
    ∃ t, runScript (hashKetama s.cfg polls parts) s = .next t ∧
      t.result = ketamaHash parts.flatten s.ctrl.crcslice ∧ t.rdata = some (ketamaHash parts.flatten s.ctrl.crcslice) ∧
      t.crc = 0xFFFFFFFF ∧ t.latch = none ∧ t.done = true ∧ t.error = s.error ∧ t.ctrl = s.ctrl ∧
      t.md5 = s.md5 ∧ t.digest = s.digest ∧ t.ring = s.ring ∧ t.ringCount = s.ringCount ∧
      t.ringNodes = s.ringNodes ∧ t.rstate = s.rstate ∧ t.lk = s.lk ∧ t.script = s.script) ∧
  (∀ slice : Bool, ketamaHash [] slice = 0x00000000)

/-! ### The MD5 commands -/

/-- MD5_INIT (42_md5.md section 2): the chaining words, LEVEL and LEN start a new key. That the bytes of the block buffer,
all of them now at or above LEVEL, stay as they were is the model's choice (log 6). -/
def Obligations.Md5InitStartsAKey : Prop :=
  (∀ v : Word, decode v = .ok .md5Init ↔ v = 0x00000010) ∧
  ∀ (s : State) (l : Latch), s.latch = some l →
    exec .md5Init s = .next { s with
      md5 := { s.md5 with
        chain := { a := 0x67452301, b := 0xEFCDAB89, c := 0x98BADCFE, d := 0x10325476 }, level := 0, len := 0 }
      latch := none
      done := true }

/-- MD5_UPDATE n (42_md5.md section 2) absorbs the first n lanes of the latched operand, lane 0 first. What the buffer
holds at or above the new LEVEL is the model's choice (log 6). -/
def Obligations.Md5UpdateAbsorbsTheLanes : Prop :=
  (∀ (v : Word) (n : Nat), decode v = .ok (.md5Update n) ↔
    1 ≤ n ∧ n ≤ 4 ∧ v = 0x00000011 ||| (BitVec.ofNat 32 (n - 1) <<< 8)) ∧
  (∀ v : Word, v.extractLsb' 0 8 = 0x11 → v.extractLsb' 10 22 ≠ 0 → decode v = .error .unusedBitSet) ∧
  ∀ (s : State) (l : Latch) (n : Nat), s.latch = some l →
    exec (.md5Update n) s =
      .next { s with md5 := (lanes l.opnd n).foldl (md5Absorb s.epoch) s.md5, latch := none, done := true }

/-- Absorb of one byte (42_md5.md section 1): the byte is stored at LEVEL, and the 64th byte of a block compresses it.
That bytes at or above the new LEVEL keep their value is the model's choice (log 6). -/
def Obligations.AbsorbStoresAndCompresses : Prop :=
  ∀ (epoch : Nat) (m : Md5Ctx) (b : Byte),
    let m' := md5Absorb epoch m b
    m'.len = m.len + 1 ∧
    (∀ k, bufferByte epoch m'.buf k = if k = m.level.toNat then b else bufferByte epoch m.buf k) ∧
    (m.level.toNat < 63 → m'.chain = m.chain ∧ m'.level.toNat = m.level.toNat + 1) ∧
    (m.level.toNat = 63 → m'.chain = md5Compress m.chain (heldBytes epoch m ++ [b]) ∧ m'.level = 0)

/-- The frame of MD5_UPDATE in the block buffer: the n bytes from LEVEL on, modulo 64, take the lanes; every other byte
reads as before (42_md5.md sections 1 and 2; at or above the new LEVEL this is the model's choice, log 6). -/
def Obligations.Md5UpdateBufferFrame : Prop :=
  ∀ (s t : State) (l : Latch) (n : Nat), s.latch = some l → n ≤ 4 → exec (.md5Update n) s = .next t →
    (∀ j, j < n → t.bufByte ((s.md5.level.toNat + j) % 64) = l.opnd.extractLsb' (8 * j) 8) ∧
    (∀ k, (∀ j, j < n → k ≠ (s.md5.level.toNat + j) % 64) → t.bufByte k = s.bufByte k) ∧
    t.ring = s.ring

/-- MD5_FINAL (42_md5.md section 2) publishes the digest words and the routing value, and re-initialises the context. That
the block buffer, all of it now at or above LEVEL, holds what Finish stored in it is the model's choice (log 6). -/
def Obligations.Md5FinalPublishesTheDigest : Prop :=
  (∀ v : Word, decode v = .ok .md5Final ↔ v = 0x00000012) ∧
  ∀ (s : State) (l : Latch), s.latch = some l →
    let d := chainBytes (md5Finish s.epoch s.md5).chain
    exec .md5Final s = .next { s with
      digest := { d0 := le32 (d.getD 0 0) (d.getD 1 0) (d.getD 2 0) (d.getD 3 0)
                  d1 := le32 (d.getD 4 0) (d.getD 5 0) (d.getD 6 0) (d.getD 7 0)
                  d2 := le32 (d.getD 8 0) (d.getD 9 0) (d.getD 10 0) (d.getD 11 0)
                  d3 := le32 (d.getD 12 0) (d.getD 13 0) (d.getD 14 0) (d.getD 15 0) }
      result := le32 (d.getD 0 0) (d.getD 1 0) (d.getD 2 0) (d.getD 3 0)
      md5 := { chain := { a := 0x67452301, b := 0xEFCDAB89, c := 0x98BADCFE, d := 0x10325476 }
               buf := (md5Finish s.epoch s.md5).buf, level := 0, len := 0 }
      latch := none
      done := true }

/-- The j-th little-endian word of a digest is the j-th chaining word, and the routing value is the first
(42_md5.md section 1). -/
def Obligations.DigestWordsAreTheChainingWords : Prop :=
  (∀ h : Chain, digestOf (chainBytes h) = { d0 := h.a, d1 := h.b, d2 := h.c, d3 := h.d } ∧
    (chainBytes h).length = 16) ∧
  ∀ k : List Byte, md5Hash k = (md5Finish 0 (md5AbsorbBytes 0 (md5Fresh []) k)).chain.a

/-- Finish pads to one block when LEVEL ≤ 55 and to two when LEVEL is 56 to 63 (42_md5.md section 1). With one block it
stores at LEVEL to 63, so the bytes below LEVEL read as before; with two it stores at every index of the buffer. That
bytes at or above LEVEL keep what was stored is the model's choice (log 6). -/
def Obligations.FinishPadsOneOrTwoBlocks : Prop :=
  ∀ (epoch : Nat) (m : Md5Ctx),
    let held := heldBytes epoch m
    let bits := (List.range 8).map fun j => (m.len * 8).extractLsb' (8 * j) 8
    (md5Finish epoch m).level = 0 ∧
    (∀ k, (m.level.toNat ≤ 55 ∧ k < m.level.toNat) ∨ 64 ≤ k →
      bufferByte epoch (md5Finish epoch m).buf k = bufferByte epoch m.buf k) ∧
    (m.level.toNat ≤ 55 →
      (md5Finish epoch m).chain =
        md5Compress m.chain (held ++ [0x80] ++ List.replicate (55 - m.level.toNat) 0x00 ++ bits)) ∧
    (56 ≤ m.level.toNat →
      (md5Finish epoch m).chain =
        md5Compress (md5Compress m.chain (held ++ [0x80] ++ List.replicate (63 - m.level.toNat) 0x00))
          (List.replicate 56 0x00 ++ bits))

/-- MD5 by the engine is MD5 by blocks: the digest of a key is the compression, block by block, of its padded message
(42_md5.md section 1). -/
def Obligations.Md5IsBlockwiseOverThePaddedMessage : Prop :=
  ∀ k : List Byte,
    (paddedMessage k).length % 64 = 0 ∧
    md5Of k = chainBytes ((List.range ((paddedMessage k).length / 64)).foldl
      (fun h i => md5Compress h (messageBlock (paddedMessage k) i))
      { a := 0x67452301, b := 0xEFCDAB89, c := 0x98BADCFE, d := 0x10325476 })

/-- The MD5 hash (42_md5.md section 3): the whole host sequence MD5_INIT, MD5_UPDATEs of any split, MD5_FINAL, from any
idle state. The form of the sequence, with one number of polls for all its WAITs, is the model's choice (log 10), as are
`rdata`, its record of the last read (log 5), and that entries at or beyond RING_COUNT stay as they were (log 6). -/
def Obligations.Md5HashOfAnySplit : Prop :=
  (∀ (s : State) (polls : Nat) (parts : List (List Byte)), s.latch = none →
    (∀ p ∈ parts, 1 ≤ p.length ∧ p.length ≤ 4) →
    ∃ t, runScript (hashMd5 s.cfg polls parts) s = .next t ∧
      t.digest = digestOf (md5Of parts.flatten) ∧ t.result = md5Hash parts.flatten ∧
      t.rdata = some (md5Hash parts.flatten) ∧ t.md5.chain = md5Iv ∧ t.md5.level = 0 ∧ t.md5.len = 0 ∧
      t.latch = none ∧ t.done = true ∧ t.error = s.error ∧ t.crc = s.crc ∧ t.ctrl = s.ctrl ∧ t.ring = s.ring ∧
      t.ringCount = s.ringCount ∧ t.ringNodes = s.ringNodes ∧ t.rstate = s.rstate ∧ t.lk = s.lk ∧
      t.script = s.script) ∧
  md5Of [] = [0xd4, 0x1d, 0x8c, 0xd9, 0x8f, 0x00, 0xb2, 0x04, 0xe9, 0x80, 0x09, 0x98, 0xec, 0xf8, 0x42, 0x7e] ∧
  md5Hash [] = 0xD98C1DD4

/-! ### The ring commands -/

/-- RING_BEGIN (43_ring.md section 2), its effect for N ≥ 1 and its error for N = 0. That the entries, all of them now at
or beyond RING_COUNT, stay as they were is the model's choice where the spec lets them hold any value (log 6). -/
def Obligations.RingBeginStartsABuild : Prop :=
  (∀ (v : Word) (n : Half), decode v = .ok (.ringBegin n) ↔ v = 0x00000020 ||| (n.setWidth 32 <<< 16)) ∧
  ∀ (s : State) (l : Latch) (n : Half), s.latch = some l →
    (n ≠ 0 → exec (.ringBegin n) s = .next { s with
      ringNodes := n, ringCount := 0, rstate := .building, latch := none, done := true }) ∧
    (n = 0 → exec (.ringBegin n) s = .next { s with
      error := s.error.or (some .badOperand), latch := none, done := true })

/-- RING_APPEND (43_ring.md section 2), its four checks in their order, and its effect: entry RING_COUNT written, every
other entry as before, RING_COUNT one more. For entries beyond RING_COUNT, which the spec lets hold any value, keeping
them is the model's choice (log 6). -/
def Obligations.RingAppendAddsOneEntry : Prop :=
  (∀ (v : Word) (k : Half), decode v = .ok (.ringAppend k) ↔ v = 0x00000021 ||| (k.setWidth 32 <<< 16)) ∧
  ∀ (s : State) (l : Latch) (k : Half), s.latch = some l →
    let c := s.ringCount.toNat
    let failed := fun e => exec (.ringAppend k) s =
      .next { s with error := s.error.or (some e), latch := none, done := true }
    (s.rstate ≠ .building → failed .ringState) ∧
    (s.rstate = .building → c = s.cfg.ringDepth → failed .ringFull) ∧
    (s.rstate = .building → c ≠ s.cfg.ringDepth → s.ringNodes.toNat ≤ k.toNat → failed .badOperand) ∧
    (s.rstate = .building → c ≠ s.cfg.ringDepth → k.toNat < s.ringNodes.toNat → 0 < c →
      l.opnd.toNat < (s.ringEntry (c - 1)).point.toNat → failed .ringOrder) ∧
    (s.rstate = .building → c ≠ s.cfg.ringDepth → k.toNat < s.ringNodes.toNat →
      (0 < c → (s.ringEntry (c - 1)).point.toNat ≤ l.opnd.toNat) →
      ∃ t, exec (.ringAppend k) s = .next t ∧
        t = { s with ring := t.ring, ringCount := s.ringCount + 1, latch := none, done := true } ∧
        t.ringEntry c = { point := l.opnd, node := k } ∧ ∀ j, j ≠ c → t.ringEntry j = s.ringEntry j)

/-- 43_ring.md R96: RING_COMMIT, its two checks in their order, and its effect. -/
def Obligations.RingCommitPublishes : Prop :=
  (∀ v : Word, decode v = .ok .ringCommit ↔ v = 0x00000022) ∧
  ∀ (s : State) (l : Latch), s.latch = some l →
    (s.rstate ≠ .building → exec .ringCommit s = .next { s with
      error := s.error.or (some .ringState), latch := none, done := true }) ∧
    (s.rstate = .building → s.ringCount = 0 → exec .ringCommit s = .next { s with
      error := s.error.or (some .emptyRing), latch := none, done := true }) ∧
    (s.rstate = .building → s.ringCount ≠ 0 → exec .ringCommit s = .next { s with
      rstate := .ready, latch := none, done := true })

/-- 43_ring.md R97: RING_LOOKUP, its two checks, its query by SRC, and its effect by the selection of R98: the lowest
index whose point is at least the query, or index 0 with WRAP. -/
def Obligations.RingLookupSelectsTheLowestHit : Prop :=
  (∀ v : Word, decode v = .ok (.ringLookup .data) ↔ v = 0x00000023) ∧
  (∀ v : Word, decode v = .ok (.ringLookup .result) ↔ v = 0x00001023) ∧
  ∀ (s : State) (l : Latch) (src : QuerySource), s.latch = some l →
    let q := match src with | .data => l.opnd | .result => l.res
    (s.rstate = .empty → exec (.ringLookup src) s = .next { s with
      error := s.error.or (some .emptyRing), latch := none, done := true }) ∧
    (s.rstate = .building → exec (.ringLookup src) s = .next { s with
      error := s.error.or (some .ringNotReady), latch := none, done := true }) ∧
    (∀ i, s.rstate = .ready → i < s.ringCount.toNat → q.toNat ≤ (s.ringEntry i).point.toNat →
      (∀ j, j < i → (s.ringEntry j).point.toNat < q.toNat) →
      exec (.ringLookup src) s = .next { s with
        lk := { wrap := false, index := BitVec.ofNat 16 i, point := (s.ringEntry i).point, node := (s.ringEntry i).node }
        latch := none
        done := true }) ∧
    (s.rstate = .ready → 0 < s.ringCount.toNat →
      (∀ j, j < s.ringCount.toNat → (s.ringEntry j).point.toNat < q.toNat) →
      exec (.ringLookup src) s = .next { s with
        lk := { wrap := true, index := 0, point := (s.ringEntry 0).point, node := (s.ringEntry 0).node }
        latch := none
        done := true }) ∧
    (s.rstate = .ready → ∃ t, exec (.ringLookup src) s = .next t ∧ t.error = s.error)

/-- The lowest-index priority selector is the lower-bound binary search on every ring the invariant admits
(43_ring.md section 2). -/
def Obligations.LookupIsTheLowerBoundBinarySearch : Prop :=
  ∀ (s : State) (l : Latch) (src : QuerySource), s.Inv → s.rstate = .ready → s.latch = some l →
    let q := match src with | .data => l.opnd | .result => l.res
    let i := lowerBound (fun j => (s.ringEntry j).point) q s.count 0 s.count
    ∃ t, exec (.ringLookup src) s = .next t ∧
      t.lk.wrap = decide (i = s.count) ∧ t.lk.index.toNat = (if i = s.count then 0 else i) ∧
      t.lk.point = (s.ringEntry (if i = s.count then 0 else i)).point ∧
      t.lk.node = (s.ringEntry (if i = s.count then 0 else i)).node

/-- 43_ring.md R102: every query of a READY ring maps to the node of a valid entry, and a single-node ring sends every
query to node 0. -/
def Obligations.ReadyRingCoversEveryQuery : Prop :=
  ∀ (s : State) (l : Latch) (src : QuerySource), s.Inv → s.rstate = .ready → s.latch = some l →
    ∃ t, exec (.ringLookup src) s = .next t ∧ t.error = s.error ∧
      (∃ i, i < s.count ∧ t.lk.index.toNat = i ∧ t.lk.point = (s.ringEntry i).point ∧
        t.lk.node = (s.ringEntry i).node ∧ t.lk.node < s.ringNodes) ∧
      (s.ringNodes = 1 → (∀ k, k < s.count → (s.ringEntry k).node = 0) ∧ t.lk.node = 0)

/-- 43_ring.md R93: RSTATE moves only as the table says, and so it moves; lookups are served only in READY, and appends
only in BUILDING. -/
def Obligations.RingStateMovesOnlyAsTheTable : Prop :=
  (∀ s t : State, step s = .next t →
    t.rstate = s.rstate ∨ (resetTurn s ∧ t.rstate = .empty) ∨
    (engineTurn s ∧ ∃ l, s.latch = some l ∧
      ((∃ n, decode l.word = .ok (.ringBegin n) ∧ n ≠ 0 ∧ t.rstate = .building) ∨
       (decode l.word = .ok .ringCommit ∧ s.rstate = .building ∧ 1 ≤ s.ringCount.toNat ∧ t.rstate = .ready)))) ∧
  (∀ (s : State) (l : Latch) (n : Half), s.latch = some l → n ≠ 0 →
    ∃ t, exec (.ringBegin n) s = .next t ∧ t.rstate = .building) ∧
  (∀ (s : State) (l : Latch), s.latch = some l → s.rstate = .building → 1 ≤ s.ringCount.toNat →
    ∃ t, exec .ringCommit s = .next t ∧ t.rstate = .ready) ∧
  (∀ (s : State) (es : List PortEvent), s.script = .reset :: es → ∃ t, step s = .next t ∧ t.rstate = .empty) ∧
  (∀ (s t : State) (i : Instr), exec i s = .next t → t.lk ≠ s.lk → s.rstate = .ready) ∧
  (∀ (s t : State) (i : Instr), exec i s = .next t → t.ring ≠ s.ring → s.rstate = .building)

/-- A READY ring stays as it is until a RING_BEGIN completes or a reset comes (20_memory.md sections 4 and 5). For
entries at or beyond RING_COUNT this is the model's choice (log 6). -/
def Obligations.ReadyRingIsImmutable : Prop :=
  ∀ s t : State, s.rstate = .ready → ¬ resetTurn s → step s = .next t →
    (engineTurn s → ∀ l, s.latch = some l → l.word.extractLsb' 0 8 ≠ 0x20) →
    t.rstate = .ready ∧ t.ring = s.ring ∧ t.ringCount = s.ringCount ∧ t.ringNodes = s.ringNodes ∧
      ∀ k, t.ringEntry k = s.ringEntry k

/-- The table is written only by RING_APPEND at index RING_COUNT: outside a reset, an entry that a step changes is that
one, under that command (20_memory.md section 4). For entries beyond RING_COUNT this is the model's choice (log 6). -/
def Obligations.OnlyAppendWritesTheTable : Prop :=
  ∀ (s t : State) (k : Nat), ¬ resetTurn s → step s = .next t → t.ringEntry k ≠ s.ringEntry k →
    k = s.count ∧ s.rstate = .building ∧ engineTurn s ∧
      ∃ l node, s.latch = some l ∧ decode l.word = .ok (.ringAppend node) ∧
        t.ringEntry k = { point := l.opnd, node := node }

/-! ### Errors, DONE, BUSY, irq -/

/-- Completion (60_exceptions.md section 1): a command that raises an error changes nothing but ERR and ERRCODE (if none
was recorded), BUSY and DONE; one that raises none completes with its effect (`Spec.effect`), BUSY := 0 and DONE := 1.
For entries at or beyond RING_COUNT and bytes at or above LEVEL, staying as they were is the model's choice (log 6). -/
def Obligations.FailedCommandOnlyRecordsItsError : Prop :=
  (∀ (s : State) (l : Latch) (i : Instr) (c : ErrCode), s.latch = some l → raises s l i = some c →
    exec i s = .next { s with error := s.error.or (some c), latch := none, done := true }) ∧
  (∀ (s : State) (l : Latch) (i : Instr), s.latch = some l → raises s l i = none →
    exec i s = .next { effect s l i with error := s.error, latch := none, done := true }) ∧
  (∀ (s : State) (i : Instr), s.latch = none → ¬ ∃ t, exec i s = .next t)

/-- 60_exceptions.md R107: the first error stays until the host clears it or a reset comes, and a recorded error does not
block a command: every command is accepted, and completes with the same effect, under it. -/
def Obligations.FirstErrorStaysAndDoesNotBlock : Prop :=
  (∀ (s t : State) (c : ErrCode), s.error = some c → step s = .next t →
    t.error = some c ∨ (t.error = none ∧ (resetTurn s ∨ ∃ v, writeTurn s 0x0C v ∧ v.getLsbD 2 = true))) ∧
  (∀ (s t : State) (i : Instr) (c : ErrCode), exec i s = .next t →
    exec i { s with error := some c } = .next { t with error := some c }) ∧
  (∀ (s : State) (c : ErrCode) (v : Word) (i : Instr), s.error = some c → s.latch = none → decode v = .ok i →
    writeTurn s 0x10 v → ∃ t, step s = .next t ∧ t.error = some c ∧
      t.latch = some { word := v, opnd := s.dataIn, res := s.result, slice := s.ctrl.crcslice })

/-- 10_state.md R21: DONE is set by every completion and by an illegal CMD write, not by a BUSY rejection, and stays
until the host clears it (or a reset). -/
def Obligations.DoneIsStickyAndSetByCompletion : Prop :=
  (∀ (s t : State) (i : Instr), exec i s = .next t → t.done = true) ∧
  (∀ s t : State, s.done = true → step s = .next t →
    t.done = true ∨ resetTurn s ∨ ∃ v, writeTurn s 0x0C v ∧ v.getLsbD 1 = true) ∧
  (∀ s t : State, s.done = false → step s = .next t → t.done = true →
    (engineTurn s ∧ s.latch.isSome = true) ∨
    (s.latch = none ∧ ∃ v e, writeTurn s 0x10 v ∧ decode v = .error e)) ∧
  (∀ (s : State) (v : Word) (e : DecodeError), s.latch = none → writeTurn s 0x10 v → decode v = .error e →
    ∃ t, step s = .next t ∧ t.done = true) ∧
  (∀ (s t : State) (v : Word), writeTurn s 0x0C v → step s = .next t → t.done = (s.done && !v.getLsbD 1)) ∧
  (∀ cfg : Config, (State.resetWith cfg).done = false)

/-- A pending command stays latched, unchanged, until the engine's turn completes it or a reset abandons it; and only
the acceptance of a CMD write latches one (10_state.md sections 2 and 4). -/
def Obligations.PendingFromAcceptanceToCompletion : Prop :=
  (∀ (s t : State) (l : Latch), s.latch = some l → step s = .next t →
    t.latch = some l ∧ ¬ engineTurn s ∧ ¬ resetTurn s ∨ t.latch = none ∧ (engineTurn s ∨ resetTurn s)) ∧
  (∀ (s t : State) (l : Latch), s.latch = none → step s = .next t → t.latch = some l →
    ∃ v i, writeTurn s 0x10 v ∧ decode v = .ok i ∧
      l = { word := v, opnd := s.dataIn, res := s.result, slice := s.ctrl.crcslice })

/-- 60_exceptions.md R109: `irq` as a function of the registers the host reads, and when it rises and falls. -/
def Obligations.IrqFollowsDoneErrAndEnable : Prop :=
  (∀ s : State, s.irq = ((s.readReg .ctrl).getLsbD 1 && ((s.readReg .status).getLsbD 1 || (s.readReg .status).getLsbD 2))) ∧
  (∀ (s t : State) (i : Instr), exec i s = .next t → t.irq = s.ctrl.irqen) ∧
  (∀ (s : State) (v : Word) (e : DecodeError), s.latch = none → writeTurn s 0x10 v → decode v = .error e →
    ∃ t, step s = .next t ∧ t.irq = s.ctrl.irqen) ∧
  (∀ (s : State) (l : Latch) (v : Word), s.latch = some l → writeTurn s 0x10 v →
    ∃ t, step s = .next t ∧ t.irq = s.ctrl.irqen) ∧
  (∀ (s t : State) (v : Word), writeTurn s 0x08 v → step s = .next t →
    t.irq = (v.getLsbD 1 && (s.done || s.error.isSome))) ∧
  (∀ (s t : State) (v : Word), writeTurn s 0x0C v → step s = .next t →
    t.irq = (s.ctrl.irqen && ((s.done && !v.getLsbD 1) || (s.error.isSome && !v.getLsbD 2))))

/-! ### Frames and hazards -/

/-- What no command writes: DATA_IN and CTRL (10_state.md section 2) and the instance's parameters. That it leaves the
model's own fields, the schedule (log 1), the last read value (log 5) and the count of resets (log 4), is the model's
choice. -/
def Obligations.CommandsLeaveTheHostsRegisters : Prop :=
  ∀ (s t : State) (i : Instr), exec i s = .next t →
    t.dataIn = s.dataIn ∧ t.ctrl = s.ctrl ∧ t.cfg = s.cfg ∧ t.script = s.script ∧ t.rdata = s.rdata ∧ t.epoch = s.epoch

/-- The frame of each family in the other units: registers, ring table and block buffer (41_crc.md, 42_md5.md and
43_ring.md, section 2 of each). For entries at or beyond RING_COUNT and bytes at or above LEVEL, whose content
93_implementation_defined.md section 2 leaves open, keeping them is the model's choice (log 6). -/
def Obligations.FamiliesLeaveTheOtherUnits : Prop :=
  ∀ (s t : State) (i : Instr), exec i s = .next t →
    (i ∈ [.nop, .crcInit, .crcFinal] ∨ (∃ n, i = .crcUpdate n) →
      t.md5 = s.md5 ∧ t.digest = s.digest ∧ t.lk = s.lk ∧ t.rstate = s.rstate ∧ t.ringCount = s.ringCount ∧
        t.ringNodes = s.ringNodes ∧ (∀ k, t.ringEntry k = s.ringEntry k) ∧ (∀ k, t.bufByte k = s.bufByte k) ∧
        (i ≠ .crcFinal → t.result = s.result) ∧ (i = .nop → t.crc = s.crc)) ∧
    (i ∈ [.md5Init, .md5Final] ∨ (∃ n, i = .md5Update n) →
      t.crc = s.crc ∧ t.lk = s.lk ∧ t.rstate = s.rstate ∧ t.ringCount = s.ringCount ∧ t.ringNodes = s.ringNodes ∧
        (∀ k, t.ringEntry k = s.ringEntry k) ∧ (i ≠ .md5Final → t.result = s.result ∧ t.digest = s.digest) ∧
        (i = .md5Init → ∀ k, t.bufByte k = s.bufByte k)) ∧
    (i = .ringCommit ∨ (∃ n, i = .ringBegin n) ∨ (∃ k, i = .ringAppend k) ∨ (∃ src, i = .ringLookup src) →
      t.crc = s.crc ∧ t.md5 = s.md5 ∧ t.result = s.result ∧ t.digest = s.digest ∧
        (∀ k, t.bufByte k = s.bufByte k) ∧ ((∀ src, i ≠ .ringLookup src) → t.lk = s.lk) ∧
        ((∀ k, i ≠ .ringAppend k) → ∀ k, t.ringEntry k = s.ringEntry k))

/-- 70_reset_and_hazards.md R124: host writes of DATA_IN, CTRL and STATUS while a command is pending do not affect it:
it completes as it would have, beside what the host wrote. ERR and ERRCODE after completion are what the host's write
left of them, or else the error that the command raises, which does not depend on the write; a write of DATA_IN or CTRL
leaves them as they would have been. -/
def Obligations.PendingCommandIgnoresHostWrites : Prop :=
  ∀ (s t : State) (l : Latch) (i : Instr) (r : Reg) (v : Word), r ∈ [.dataIn, .ctrl, .status] → s.latch = some l →
    exec i s = .next t →
    exec i (s.writeReg r v) = .next { t with
      dataIn := (s.writeReg r v).dataIn
      ctrl := (s.writeReg r v).ctrl
      error := (s.writeReg r v).error.or (raises s l i) } ∧
    t.error = s.error.or (raises s l i) ∧
    (r ≠ .status → (s.writeReg r v).error = s.error)

/-- Until completion the host sees the old values: a host access changes none of RESULT, CRC_ACC, DIGESTj, LK_*,
RING_COUNT, RING_NODES, RSTATE and MD5BUF (70_reset_and_hazards.md section 3), and neither memory (20_memory.md
section 5). For entries at or beyond RING_COUNT and bytes at or above LEVEL this is the model's choice (log 6). -/
def Obligations.ResultsAppearOnlyAtCompletion : Prop :=
  ∀ (s t : State) (a : Access) (es : List PortEvent), s.script = .host a :: es → step s = .next t →
    t.result = s.result ∧ t.crc = s.crc ∧ t.digest = s.digest ∧ t.lk = s.lk ∧ t.ringCount = s.ringCount ∧
      t.ringNodes = s.ringNodes ∧ t.rstate = s.rstate ∧ t.md5 = s.md5 ∧ t.ring = s.ring ∧ t.cfg = s.cfg ∧
      (∀ k, t.ringEntry k = s.ringEntry k) ∧ ∀ k, t.bufByte k = s.bufByte k

/-! ### Reset, invariant, progress -/

/-- The values of every register and engine in the state after reset, for every instance (10_state.md sections 2 to 4). -/
def Obligations.PowerOnStateIsAtReset : Prop :=
  ∀ cfg : Config, AtReset (State.resetWith cfg) ∧ (State.resetWith cfg).cfg = cfg

/-- 70_reset_and_hazards.md R118: a reset step, from any state: every register and engine at its reset value, the
pending command abandoned. -/
def Obligations.ResetStepRestoresEveryRegister : Prop :=
  ∀ (s : State) (es : List PortEvent), s.script = .reset :: es →
    ∃ t, step s = .next t ∧ AtReset t ∧ t.cfg = s.cfg ∧ t.readReg .cap = s.readReg .cap ∧ t.script = es

/-- The invariant holds after reset, of every legal instance. -/
def Obligations.ResetStateMeetsTheInvariant : Prop := ∀ cfg : Config, cfg.legal = true → (State.resetWith cfg).Inv

/-- Every step keeps the invariant: the ring sorted, its nodes valid, its count within the table, both memories in
canonical form, every valid entry and held byte written, the latch holding a decoded word. -/
def Obligations.StepKeepsTheInvariant : Prop := ∀ s t : State, s.Inv → step s = .next t → t.Inv

/-- Under the invariant no step faults, and a step is refused only on a host access that R44 gives no step. -/
def Obligations.OnlyIllegalAccessesStop : Prop :=
  ∀ s : State, s.Inv →
    (∀ f, step s ≠ .fault f) ∧
    ∀ r, step s = .refused r → ∃ a es, s.script = .host a :: es ∧ a.legal s.cfg = false

/-- With no further host step scheduled, a pending command completes in the next step (00_scope.md section 3: weak
fairness, in the form of log 1). -/
def Obligations.PendingCommandCompletes : Prop :=
  ∀ (s : State) (l : Latch), s.Inv → s.latch = some l → s.script = [] →
    ∃ t, step s = .next t ∧ t.latch = none ∧ t.done = true

/-! ### The host procedures -/

/-- The loading (43_ring.md section 3): a sorted list of points with valid nodes, that fits the table, loads as a READY
ring with exactly those entries, from any idle state. The form of the load as a schedule, with its WAITs, is the model's
choice (log 10). -/
def Obligations.LoadingASortedListMakesAReadyRing : Prop :=
  ∀ (s : State) (polls : Nat) (nodes : Half) (ps : List RingPoint), s.latch = none → s.cfg.legal = true →
    ps ≠ [] → ps.length ≤ s.cfg.ringDepth → (∀ p ∈ ps, p.node < nodes) →
    ps.Pairwise (fun p q => p.point ≤ q.point) →
    ∃ t, runScript (loadRing s.cfg polls nodes ps) s = .next t ∧
      t.rstate = .ready ∧ t.ringCount.toNat = ps.length ∧ t.ringNodes = nodes ∧ t.error = s.error ∧
      t.latch = none ∧ t.script = s.script ∧ t.crc = s.crc ∧ t.md5 = s.md5 ∧ t.result = s.result ∧
      t.digest = s.digest ∧ t.lk = s.lk ∧ ∀ (k : Nat) (h : k < ps.length), t.ringEntry k = ps[k]

/-- The host's sort is ascending and stable (43_ring.md section 3): a permutation, in non-decreasing order, in which the
points of one value keep their order. -/
def Obligations.SortIsAscendingAndStable : Prop :=
  ∀ ps : List RingPoint,
    (sortPoints ps).Pairwise (fun p q => p.point ≤ q.point) ∧ (sortPoints ps).Perm ps ∧
    ∀ v : Word, (sortPoints ps).filter (fun p => p.point = v) = ps.filter (fun p => p.point = v)

/-- The points of a node (43_ring.md section 3): 160 per unit of weight, the four words of digest i at 4i to 4i + 3. -/
def Obligations.NodePointsAreTheDigestWords : Prop :=
  ∀ (n : Half) (id : List Byte) (w : Nat),
    (nodePoints n id w).length = 160 * w ∧
    ∀ i j, i < 40 * w → j < 4 →
      (nodePoints n id w)[4 * i + j]? = some { point := digestWord (md5Of (id ++ [0x2D] ++ dec i)) j, node := n }

/-- `dec(i)` is the decimal form of i (43_ring.md section 3): ASCII digits that read back as i, with no leading zero. -/
def Obligations.DecIsTheDecimalForm : Prop :=
  ∀ i : Nat,
    (dec i).foldl (fun a b => 10 * a + (b.toNat - 0x30)) 0 = i ∧
    (∀ b ∈ dec i, 0x30 ≤ b.toNat ∧ b.toNat ≤ 0x39) ∧
    ((dec i).head? = some 0x30 → i = 0) ∧ dec 0 = [0x30]

/-- What rejects a build before its first command (43_ring.md section 3), the block left as it is: some weight ≤ 0. That
a number of nodes outside 1 to 65535 also rejects it, and that the host makes the check of the total that it "should"
make, is the model's choice (log 12), as is that no hash command runs on the block first (log 13); nothing else rejects
it in this model. -/
def Obligations.InvalidWeightRejectsTheBuild : Prop :=
  ∀ (s : State) (polls : Nat) (nodes : List HostNode),
    ((∃ nd ∈ nodes, nd.weight ≤ 0) → buildRing polls nodes s = .rejected .invalidWeight s) ∧
    ((∀ nd ∈ nodes, 0 < nd.weight) →
      (nodes.length = 0 ∨ 65535 < nodes.length → buildRing polls nodes s = .rejected .nodeCount s) ∧
      (1 ≤ nodes.length → nodes.length ≤ 65535 → s.cfg.ringDepth < totalPoints nodes →
        buildRing polls nodes s = .rejected .tooManyPoints s) ∧
      (1 ≤ nodes.length → nodes.length ≤ 65535 → totalPoints nodes ≤ s.cfg.ringDepth →
        buildRing polls nodes s =
          runLoad polls (BitVec.ofNat 16 nodes.length) (sortPoints (generatePoints 0 nodes)) s))

/-- LOOKUP d as the host runs it (30_encoding.md section 4): with no error recorded and a READY ring it ends with LK_NODE
read, on the state that RING_LOOKUP leaves; on an EMPTY ring and on one being built it fails with EMPTY_RING and with
RING_NOT_READY, LK_* as they were; and an error recorded before is what it fails with. The form of the run, with its
WAIT, is the model's choice (log 10), and `rdata` is its record of the last read (log 5). -/
def Obligations.LookupEndsAsStatusSays : Prop :=
  ∀ (s : State) (polls : Nat) (d : Word), s.latch = none →
    let issued := { s with
      dataIn := d
      latch := some { word := 0x00000023, opnd := d, res := s.result, slice := s.ctrl.crcslice } }
    (s.error = none → s.rstate = .ready →
      ∃ u, exec (.ringLookup .data) issued = .next u ∧
        runLookup polls d s = .finished { u with rdata := some (BitVec.ofNat 32 u.lk.node.toNat) }) ∧
    (s.error = none → s.rstate = .empty →
      ∃ t, runLookup polls d s = .failed 3 t ∧ t.lk = s.lk ∧ t.error = some .emptyRing) ∧
    (s.error = none → s.rstate = .building →
      ∃ t, runLookup polls d s = .failed 4 t ∧ t.lk = s.lk ∧ t.error = some .ringNotReady) ∧
    (∀ c, s.error = some c →
      ∃ t, runLookup polls d s = .failed (BitVec.ofNat 4 (errorNumber (some c))) t ∧ t.error = some c)

/-- The load as the host runs it, STATUS.ERR checked after each command (43_ring.md section 3). A sorted list with valid
nodes that fits the table, with no error recorded before, raises none, and the load ends as its whole schedule does. One
that does not fit fails with RING_FULL at the append of entry RING_DEPTH, and the build is abandoned: the ring is left
BUILDING, with the first RING_DEPTH points, and is not committed. An error recorded before stops the load at its first
check, after RING_BEGIN has completed; that the entries, then at or beyond RING_COUNT unless `nodes` is 0, are kept is the
model's choice (log 6), and RING_BEGIN clears none (section 2). The form of the run is the model's choice (log 10). -/
def Obligations.LoadChecksEachCommand : Prop :=
  ∀ (s : State) (polls : Nat) (nodes : Half) (ps : List RingPoint), s.latch = none → s.cfg.legal = true →
    (s.error = none → ps ≠ [] → (∀ p ∈ ps, p.node < nodes) → ps.Pairwise (fun p q => p.point ≤ q.point) →
      (ps.length ≤ s.cfg.ringDepth →
        ∃ t, runLoad polls nodes ps s = .finished t ∧ runScript (loadRing s.cfg polls nodes ps) s = .next t ∧
          t.rstate = .ready ∧ t.error = none) ∧
      (s.cfg.ringDepth < ps.length →
        ∃ t, runLoad polls nodes ps s = .failed 6 t ∧ t.error = some .ringFull ∧ t.rstate = .building ∧
          t.ringCount.toNat = s.cfg.ringDepth ∧
          ∀ (k : Nat) (h : k < ps.length), k < s.cfg.ringDepth → t.ringEntry k = ps[k])) ∧
    (∀ c, s.error = some c →
      ∃ t, runLoad polls nodes ps s = .failed (BitVec.ofNat 4 (errorNumber (some c))) t ∧ t.ring = s.ring)

/-- The host's build (43_ring.md section 3): with every weight positive, a node count that RING_BEGIN takes and a total
that fits the table, from an idle state with no error recorded, it leaves a READY ring of 160 points for each unit of
weight: the points of the list in ascending order, equal points in generation order. The form of the run is the model's
choice (log 10), as is that the points are hashed outside the block (log 13). -/
def Obligations.BuildMakesAReadyRing : Prop :=
  ∀ (s : State) (polls : Nat) (nodes : List HostNode), s.latch = none → s.cfg.legal = true → s.error = none →
    (∀ nd ∈ nodes, 0 < nd.weight) → 1 ≤ nodes.length → nodes.length ≤ 65535 → totalPoints nodes ≤ s.cfg.ringDepth →
    ∃ t, buildRing polls nodes s = .finished t ∧ t.rstate = .ready ∧ t.ringCount.toNat = totalPoints nodes ∧
      t.ringNodes.toNat = nodes.length ∧ t.error = none ∧
      ((List.range (totalPoints nodes)).map t.ringEntry).Pairwise (fun p q => p.point ≤ q.point) ∧
      ∀ v : Word, ((List.range (totalPoints nodes)).map t.ringEntry).filter (fun p => p.point = v) =
        (generatePoints 0 nodes).filter (fun p => p.point = v)
end

