-- ==== Sys2Proof/Laws/Decode.lean ====
section
/-! SUPPORT. The fields of a command word and the rows of the opcode table: a field put in place and read back, and
what a row that matches says. -/

namespace Sys2Proof

/-- A word is its bits under a mask beside the rest. -/
theorem and_or_compl (v m : Word) : (v &&& m) ||| (v &&& ~~~ m) = v := by
  apply BitVec.eq_of_getLsbD_eq
  intro i hi
  simp only [BitVec.getLsbD_or, BitVec.getLsbD_and, BitVec.getLsbD_not, hi, decide_true, Bool.true_and]
  cases v.getLsbD i <;> cases m.getLsbD i <;> rfl

/-! ### Fields in place -/

theorem placeImm16_fieldImm16 (v : Word) : placeImm16 (fieldImm16 v) = v &&& 0xFFFF0000 := by
  apply BitVec.eq_of_getLsbD_eq
  intro i hi
  simp only [placeImm16, fieldImm16, BitVec.getLsbD_shiftLeft, BitVec.getLsbD_setWidth, BitVec.getLsbD_extractLsb',
    BitVec.getLsbD_and]
  interval_cases i <;> simp

theorem fieldImm16_placeImm16 (b : Word) (k : Half) (hb : b.extractLsb' 16 16 = 0) : fieldImm16 (b ||| placeImm16 k) = k := by
  apply BitVec.eq_of_getLsbD_eq
  intro i hi
  have h := congrArg (·.getLsbD i) hb
  simp only [BitVec.getLsbD_extractLsb', hi, decide_true, Bool.true_and] at h
  have e : 16 + i - 16 = i := by omega
  have h1 : 16 + i < 32 := by omega
  have h2 : i < 32 := by omega
  have h' : b.getLsbD (16 + i) = false := by rw [h]; simp
  simp only [fieldImm16, placeImm16, BitVec.getLsbD_extractLsb', BitVec.getLsbD_or, BitVec.getLsbD_shiftLeft,
    BitVec.getLsbD_setWidth, h', hi, e, h1, h2, decide_true, Bool.true_and, Bool.false_or]
  simp

theorem placeImm16_and_low (k : Half) : placeImm16 k &&& 0x0000FFFF = 0 := by
  apply BitVec.eq_of_getLsbD_eq
  intro i hi
  simp only [placeImm16, BitVec.getLsbD_shiftLeft, BitVec.getLsbD_setWidth, BitVec.getLsbD_and]
  interval_cases i <;> simp

theorem placeByteCount_byteCount (v : Word) : placeByteCount (byteCount v) = v &&& 0x00000300 := by
  apply BitVec.eq_of_getLsbD_eq
  intro i hi
  simp only [placeByteCount, byteCount, fieldNm1, Nat.add_sub_cancel, BitVec.ofNat_toNat, BitVec.setWidth_eq,
    BitVec.getLsbD_shiftLeft, BitVec.getLsbD_setWidth, BitVec.getLsbD_extractLsb', BitVec.getLsbD_and]
  interval_cases i <;> simp

theorem placeSrc_querySource (v : Word) : placeSrc (querySource v) = v &&& 0x00001000 := by
  apply BitVec.eq_of_getLsbD_eq
  intro i hi
  unfold querySource fieldSrc
  cases h : v.getLsbD 12 <;> simp only [placeSrc, BitVec.getLsbD_and] <;> interval_cases i <;> simp_all

theorem byteCount_le (v : Word) : 1 ≤ byteCount v ∧ byteCount v ≤ 4 := by
  unfold byteCount
  have := (fieldNm1 v).isLt
  omega

/-! ### Rows -/

/-- Every mask covers OP, and the OPs of the rows differ (30_encoding.md R64). -/
theorem opcodeTable_op_mask : ∀ r ∈ opcodeTable, r.mask &&& 0xFF = 0xFF := by
  simp [opcodeTable]

/-- A word that a row matches has the row's OP. -/
theorem op_of_hit {r : OpcodeRow} (hr : r ∈ opcodeTable) {v : Word} (h : v &&& r.mask = r.bits) :
    v &&& 0xFF = r.bits &&& 0xFF := by
  rw [← h, BitVec.and_assoc, opcodeTable_op_mask r hr]

/-- What the search of the table finds. -/
theorem decode_ok_row {v : Word} {i : Instr} (h : decode v = .ok i) :
    ∃ r ∈ opcodeTable, v &&& r.mask = r.bits ∧ i = r.instr v := by
  unfold decode at h
  split at h
  · next r hr =>
    refine ⟨r, List.mem_of_find?_eq_some hr, ?_, by simpa using h.symm⟩
    simpa [OpcodeRow.hits] using List.find?_some hr
  · split at h <;> cases h

/-- A word that decodes to nothing matches no row. -/
theorem decode_error_row {v : Word} {e : DecodeError} (h : decode v = .error e) :
    ∀ r ∈ opcodeTable, v &&& r.mask ≠ r.bits := by
  unfold decode at h
  split at h
  · cases h
  · next hn =>
    intro r hr
    simpa [OpcodeRow.hits] using List.find?_eq_none.mp hn r hr

end Sys2Proof
end

