-- ==== Sys2Proof/Laws/State.lean ====
section
/-! SUPPORT. What each named update of State leaves in each field, so that no proof unfolds a record update. -/

namespace Sys2Proof.Machine

variable (s : State)

/-! ### clearError -/

@[simp] theorem State.clearError_cfg : (s.clearError).cfg = s.cfg := rfl
@[simp] theorem State.clearError_ctrl : (s.clearError).ctrl = s.ctrl := rfl
@[simp] theorem State.clearError_done : (s.clearError).done = s.done := rfl
@[simp] theorem State.clearError_error : (s.clearError).error = none := rfl
@[simp] theorem State.clearError_rstate : (s.clearError).rstate = s.rstate := rfl
@[simp] theorem State.clearError_dataIn : (s.clearError).dataIn = s.dataIn := rfl
@[simp] theorem State.clearError_result : (s.clearError).result = s.result := rfl
@[simp] theorem State.clearError_crc : (s.clearError).crc = s.crc := rfl
@[simp] theorem State.clearError_ringCount : (s.clearError).ringCount = s.ringCount := rfl
@[simp] theorem State.clearError_ringNodes : (s.clearError).ringNodes = s.ringNodes := rfl
@[simp] theorem State.clearError_lk : (s.clearError).lk = s.lk := rfl
@[simp] theorem State.clearError_digest : (s.clearError).digest = s.digest := rfl
@[simp] theorem State.clearError_ring : (s.clearError).ring = s.ring := rfl
@[simp] theorem State.clearError_md5 : (s.clearError).md5 = s.md5 := rfl
@[simp] theorem State.clearError_latch : (s.clearError).latch = s.latch := rfl
@[simp] theorem State.clearError_script : (s.clearError).script = s.script := rfl
@[simp] theorem State.clearError_rdata : (s.clearError).rdata = s.rdata := rfl
@[simp] theorem State.clearError_epoch : (s.clearError).epoch = s.epoch := rfl

/-! ### clearDone -/

@[simp] theorem State.clearDone_cfg : (s.clearDone).cfg = s.cfg := rfl
@[simp] theorem State.clearDone_ctrl : (s.clearDone).ctrl = s.ctrl := rfl
@[simp] theorem State.clearDone_done : (s.clearDone).done = false := rfl
@[simp] theorem State.clearDone_error : (s.clearDone).error = s.error := rfl
@[simp] theorem State.clearDone_rstate : (s.clearDone).rstate = s.rstate := rfl
@[simp] theorem State.clearDone_dataIn : (s.clearDone).dataIn = s.dataIn := rfl
@[simp] theorem State.clearDone_result : (s.clearDone).result = s.result := rfl
@[simp] theorem State.clearDone_crc : (s.clearDone).crc = s.crc := rfl
@[simp] theorem State.clearDone_ringCount : (s.clearDone).ringCount = s.ringCount := rfl
@[simp] theorem State.clearDone_ringNodes : (s.clearDone).ringNodes = s.ringNodes := rfl
@[simp] theorem State.clearDone_lk : (s.clearDone).lk = s.lk := rfl
@[simp] theorem State.clearDone_digest : (s.clearDone).digest = s.digest := rfl
@[simp] theorem State.clearDone_ring : (s.clearDone).ring = s.ring := rfl
@[simp] theorem State.clearDone_md5 : (s.clearDone).md5 = s.md5 := rfl
@[simp] theorem State.clearDone_latch : (s.clearDone).latch = s.latch := rfl
@[simp] theorem State.clearDone_script : (s.clearDone).script = s.script := rfl
@[simp] theorem State.clearDone_rdata : (s.clearDone).rdata = s.rdata := rfl
@[simp] theorem State.clearDone_epoch : (s.clearDone).epoch = s.epoch := rfl

/-! ### setDone -/

@[simp] theorem State.setDone_cfg : (s.setDone).cfg = s.cfg := rfl
@[simp] theorem State.setDone_ctrl : (s.setDone).ctrl = s.ctrl := rfl
@[simp] theorem State.setDone_done : (s.setDone).done = true := rfl
@[simp] theorem State.setDone_error : (s.setDone).error = s.error := rfl
@[simp] theorem State.setDone_rstate : (s.setDone).rstate = s.rstate := rfl
@[simp] theorem State.setDone_dataIn : (s.setDone).dataIn = s.dataIn := rfl
@[simp] theorem State.setDone_result : (s.setDone).result = s.result := rfl
@[simp] theorem State.setDone_crc : (s.setDone).crc = s.crc := rfl
@[simp] theorem State.setDone_ringCount : (s.setDone).ringCount = s.ringCount := rfl
@[simp] theorem State.setDone_ringNodes : (s.setDone).ringNodes = s.ringNodes := rfl
@[simp] theorem State.setDone_lk : (s.setDone).lk = s.lk := rfl
@[simp] theorem State.setDone_digest : (s.setDone).digest = s.digest := rfl
@[simp] theorem State.setDone_ring : (s.setDone).ring = s.ring := rfl
@[simp] theorem State.setDone_md5 : (s.setDone).md5 = s.md5 := rfl
@[simp] theorem State.setDone_latch : (s.setDone).latch = s.latch := rfl
@[simp] theorem State.setDone_script : (s.setDone).script = s.script := rfl
@[simp] theorem State.setDone_rdata : (s.setDone).rdata = s.rdata := rfl
@[simp] theorem State.setDone_epoch : (s.setDone).epoch = s.epoch := rfl

/-! ### setLatch -/

@[simp] theorem State.setLatch_cfg (l : Latch) : (s.setLatch l).cfg = s.cfg := rfl
@[simp] theorem State.setLatch_ctrl (l : Latch) : (s.setLatch l).ctrl = s.ctrl := rfl
@[simp] theorem State.setLatch_done (l : Latch) : (s.setLatch l).done = s.done := rfl
@[simp] theorem State.setLatch_error (l : Latch) : (s.setLatch l).error = s.error := rfl
@[simp] theorem State.setLatch_rstate (l : Latch) : (s.setLatch l).rstate = s.rstate := rfl
@[simp] theorem State.setLatch_dataIn (l : Latch) : (s.setLatch l).dataIn = s.dataIn := rfl
@[simp] theorem State.setLatch_result (l : Latch) : (s.setLatch l).result = s.result := rfl
@[simp] theorem State.setLatch_crc (l : Latch) : (s.setLatch l).crc = s.crc := rfl
@[simp] theorem State.setLatch_ringCount (l : Latch) : (s.setLatch l).ringCount = s.ringCount := rfl
@[simp] theorem State.setLatch_ringNodes (l : Latch) : (s.setLatch l).ringNodes = s.ringNodes := rfl
@[simp] theorem State.setLatch_lk (l : Latch) : (s.setLatch l).lk = s.lk := rfl
@[simp] theorem State.setLatch_digest (l : Latch) : (s.setLatch l).digest = s.digest := rfl
@[simp] theorem State.setLatch_ring (l : Latch) : (s.setLatch l).ring = s.ring := rfl
@[simp] theorem State.setLatch_md5 (l : Latch) : (s.setLatch l).md5 = s.md5 := rfl
@[simp] theorem State.setLatch_latch (l : Latch) : (s.setLatch l).latch = some l := rfl
@[simp] theorem State.setLatch_script (l : Latch) : (s.setLatch l).script = s.script := rfl
@[simp] theorem State.setLatch_rdata (l : Latch) : (s.setLatch l).rdata = s.rdata := rfl
@[simp] theorem State.setLatch_epoch (l : Latch) : (s.setLatch l).epoch = s.epoch := rfl

/-! ### finish -/

@[simp] theorem State.finish_cfg : (s.finish).cfg = s.cfg := rfl
@[simp] theorem State.finish_ctrl : (s.finish).ctrl = s.ctrl := rfl
@[simp] theorem State.finish_done : (s.finish).done = true := rfl
@[simp] theorem State.finish_error : (s.finish).error = s.error := rfl
@[simp] theorem State.finish_rstate : (s.finish).rstate = s.rstate := rfl
@[simp] theorem State.finish_dataIn : (s.finish).dataIn = s.dataIn := rfl
@[simp] theorem State.finish_result : (s.finish).result = s.result := rfl
@[simp] theorem State.finish_crc : (s.finish).crc = s.crc := rfl
@[simp] theorem State.finish_ringCount : (s.finish).ringCount = s.ringCount := rfl
@[simp] theorem State.finish_ringNodes : (s.finish).ringNodes = s.ringNodes := rfl
@[simp] theorem State.finish_lk : (s.finish).lk = s.lk := rfl
@[simp] theorem State.finish_digest : (s.finish).digest = s.digest := rfl
@[simp] theorem State.finish_ring : (s.finish).ring = s.ring := rfl
@[simp] theorem State.finish_md5 : (s.finish).md5 = s.md5 := rfl
@[simp] theorem State.finish_latch : (s.finish).latch = none := rfl
@[simp] theorem State.finish_script : (s.finish).script = s.script := rfl
@[simp] theorem State.finish_rdata : (s.finish).rdata = s.rdata := rfl
@[simp] theorem State.finish_epoch : (s.finish).epoch = s.epoch := rfl

/-! ### setCrc -/

@[simp] theorem State.setCrc_cfg (v : Word) : (s.setCrc v).cfg = s.cfg := rfl
@[simp] theorem State.setCrc_ctrl (v : Word) : (s.setCrc v).ctrl = s.ctrl := rfl
@[simp] theorem State.setCrc_done (v : Word) : (s.setCrc v).done = s.done := rfl
@[simp] theorem State.setCrc_error (v : Word) : (s.setCrc v).error = s.error := rfl
@[simp] theorem State.setCrc_rstate (v : Word) : (s.setCrc v).rstate = s.rstate := rfl
@[simp] theorem State.setCrc_dataIn (v : Word) : (s.setCrc v).dataIn = s.dataIn := rfl
@[simp] theorem State.setCrc_result (v : Word) : (s.setCrc v).result = s.result := rfl
@[simp] theorem State.setCrc_crc (v : Word) : (s.setCrc v).crc = v := rfl
@[simp] theorem State.setCrc_ringCount (v : Word) : (s.setCrc v).ringCount = s.ringCount := rfl
@[simp] theorem State.setCrc_ringNodes (v : Word) : (s.setCrc v).ringNodes = s.ringNodes := rfl
@[simp] theorem State.setCrc_lk (v : Word) : (s.setCrc v).lk = s.lk := rfl
@[simp] theorem State.setCrc_digest (v : Word) : (s.setCrc v).digest = s.digest := rfl
@[simp] theorem State.setCrc_ring (v : Word) : (s.setCrc v).ring = s.ring := rfl
@[simp] theorem State.setCrc_md5 (v : Word) : (s.setCrc v).md5 = s.md5 := rfl
@[simp] theorem State.setCrc_latch (v : Word) : (s.setCrc v).latch = s.latch := rfl
@[simp] theorem State.setCrc_script (v : Word) : (s.setCrc v).script = s.script := rfl
@[simp] theorem State.setCrc_rdata (v : Word) : (s.setCrc v).rdata = s.rdata := rfl
@[simp] theorem State.setCrc_epoch (v : Word) : (s.setCrc v).epoch = s.epoch := rfl

/-! ### setResult -/

@[simp] theorem State.setResult_cfg (v : Word) : (s.setResult v).cfg = s.cfg := rfl
@[simp] theorem State.setResult_ctrl (v : Word) : (s.setResult v).ctrl = s.ctrl := rfl
@[simp] theorem State.setResult_done (v : Word) : (s.setResult v).done = s.done := rfl
@[simp] theorem State.setResult_error (v : Word) : (s.setResult v).error = s.error := rfl
@[simp] theorem State.setResult_rstate (v : Word) : (s.setResult v).rstate = s.rstate := rfl
@[simp] theorem State.setResult_dataIn (v : Word) : (s.setResult v).dataIn = s.dataIn := rfl
@[simp] theorem State.setResult_result (v : Word) : (s.setResult v).result = v := rfl
@[simp] theorem State.setResult_crc (v : Word) : (s.setResult v).crc = s.crc := rfl
@[simp] theorem State.setResult_ringCount (v : Word) : (s.setResult v).ringCount = s.ringCount := rfl
@[simp] theorem State.setResult_ringNodes (v : Word) : (s.setResult v).ringNodes = s.ringNodes := rfl
@[simp] theorem State.setResult_lk (v : Word) : (s.setResult v).lk = s.lk := rfl
@[simp] theorem State.setResult_digest (v : Word) : (s.setResult v).digest = s.digest := rfl
@[simp] theorem State.setResult_ring (v : Word) : (s.setResult v).ring = s.ring := rfl
@[simp] theorem State.setResult_md5 (v : Word) : (s.setResult v).md5 = s.md5 := rfl
@[simp] theorem State.setResult_latch (v : Word) : (s.setResult v).latch = s.latch := rfl
@[simp] theorem State.setResult_script (v : Word) : (s.setResult v).script = s.script := rfl
@[simp] theorem State.setResult_rdata (v : Word) : (s.setResult v).rdata = s.rdata := rfl
@[simp] theorem State.setResult_epoch (v : Word) : (s.setResult v).epoch = s.epoch := rfl

/-! ### setMd5 -/

@[simp] theorem State.setMd5_cfg (m : Md5Ctx) : (s.setMd5 m).cfg = s.cfg := rfl
@[simp] theorem State.setMd5_ctrl (m : Md5Ctx) : (s.setMd5 m).ctrl = s.ctrl := rfl
@[simp] theorem State.setMd5_done (m : Md5Ctx) : (s.setMd5 m).done = s.done := rfl
@[simp] theorem State.setMd5_error (m : Md5Ctx) : (s.setMd5 m).error = s.error := rfl
@[simp] theorem State.setMd5_rstate (m : Md5Ctx) : (s.setMd5 m).rstate = s.rstate := rfl
@[simp] theorem State.setMd5_dataIn (m : Md5Ctx) : (s.setMd5 m).dataIn = s.dataIn := rfl
@[simp] theorem State.setMd5_result (m : Md5Ctx) : (s.setMd5 m).result = s.result := rfl
@[simp] theorem State.setMd5_crc (m : Md5Ctx) : (s.setMd5 m).crc = s.crc := rfl
@[simp] theorem State.setMd5_ringCount (m : Md5Ctx) : (s.setMd5 m).ringCount = s.ringCount := rfl
@[simp] theorem State.setMd5_ringNodes (m : Md5Ctx) : (s.setMd5 m).ringNodes = s.ringNodes := rfl
@[simp] theorem State.setMd5_lk (m : Md5Ctx) : (s.setMd5 m).lk = s.lk := rfl
@[simp] theorem State.setMd5_digest (m : Md5Ctx) : (s.setMd5 m).digest = s.digest := rfl
@[simp] theorem State.setMd5_ring (m : Md5Ctx) : (s.setMd5 m).ring = s.ring := rfl
@[simp] theorem State.setMd5_md5 (m : Md5Ctx) : (s.setMd5 m).md5 = m := rfl
@[simp] theorem State.setMd5_latch (m : Md5Ctx) : (s.setMd5 m).latch = s.latch := rfl
@[simp] theorem State.setMd5_script (m : Md5Ctx) : (s.setMd5 m).script = s.script := rfl
@[simp] theorem State.setMd5_rdata (m : Md5Ctx) : (s.setMd5 m).rdata = s.rdata := rfl
@[simp] theorem State.setMd5_epoch (m : Md5Ctx) : (s.setMd5 m).epoch = s.epoch := rfl

/-! ### setDigest -/

@[simp] theorem State.setDigest_cfg (d : Digest) : (s.setDigest d).cfg = s.cfg := rfl
@[simp] theorem State.setDigest_ctrl (d : Digest) : (s.setDigest d).ctrl = s.ctrl := rfl
@[simp] theorem State.setDigest_done (d : Digest) : (s.setDigest d).done = s.done := rfl
@[simp] theorem State.setDigest_error (d : Digest) : (s.setDigest d).error = s.error := rfl
@[simp] theorem State.setDigest_rstate (d : Digest) : (s.setDigest d).rstate = s.rstate := rfl
@[simp] theorem State.setDigest_dataIn (d : Digest) : (s.setDigest d).dataIn = s.dataIn := rfl
@[simp] theorem State.setDigest_result (d : Digest) : (s.setDigest d).result = s.result := rfl
@[simp] theorem State.setDigest_crc (d : Digest) : (s.setDigest d).crc = s.crc := rfl
@[simp] theorem State.setDigest_ringCount (d : Digest) : (s.setDigest d).ringCount = s.ringCount := rfl
@[simp] theorem State.setDigest_ringNodes (d : Digest) : (s.setDigest d).ringNodes = s.ringNodes := rfl
@[simp] theorem State.setDigest_lk (d : Digest) : (s.setDigest d).lk = s.lk := rfl
@[simp] theorem State.setDigest_digest (d : Digest) : (s.setDigest d).digest = d := rfl
@[simp] theorem State.setDigest_ring (d : Digest) : (s.setDigest d).ring = s.ring := rfl
@[simp] theorem State.setDigest_md5 (d : Digest) : (s.setDigest d).md5 = s.md5 := rfl
@[simp] theorem State.setDigest_latch (d : Digest) : (s.setDigest d).latch = s.latch := rfl
@[simp] theorem State.setDigest_script (d : Digest) : (s.setDigest d).script = s.script := rfl
@[simp] theorem State.setDigest_rdata (d : Digest) : (s.setDigest d).rdata = s.rdata := rfl
@[simp] theorem State.setDigest_epoch (d : Digest) : (s.setDigest d).epoch = s.epoch := rfl

/-! ### setRstate -/

@[simp] theorem State.setRstate_cfg (r : RState) : (s.setRstate r).cfg = s.cfg := rfl
@[simp] theorem State.setRstate_ctrl (r : RState) : (s.setRstate r).ctrl = s.ctrl := rfl
@[simp] theorem State.setRstate_done (r : RState) : (s.setRstate r).done = s.done := rfl
@[simp] theorem State.setRstate_error (r : RState) : (s.setRstate r).error = s.error := rfl
@[simp] theorem State.setRstate_rstate (r : RState) : (s.setRstate r).rstate = r := rfl
@[simp] theorem State.setRstate_dataIn (r : RState) : (s.setRstate r).dataIn = s.dataIn := rfl
@[simp] theorem State.setRstate_result (r : RState) : (s.setRstate r).result = s.result := rfl
@[simp] theorem State.setRstate_crc (r : RState) : (s.setRstate r).crc = s.crc := rfl
@[simp] theorem State.setRstate_ringCount (r : RState) : (s.setRstate r).ringCount = s.ringCount := rfl
@[simp] theorem State.setRstate_ringNodes (r : RState) : (s.setRstate r).ringNodes = s.ringNodes := rfl
@[simp] theorem State.setRstate_lk (r : RState) : (s.setRstate r).lk = s.lk := rfl
@[simp] theorem State.setRstate_digest (r : RState) : (s.setRstate r).digest = s.digest := rfl
@[simp] theorem State.setRstate_ring (r : RState) : (s.setRstate r).ring = s.ring := rfl
@[simp] theorem State.setRstate_md5 (r : RState) : (s.setRstate r).md5 = s.md5 := rfl
@[simp] theorem State.setRstate_latch (r : RState) : (s.setRstate r).latch = s.latch := rfl
@[simp] theorem State.setRstate_script (r : RState) : (s.setRstate r).script = s.script := rfl
@[simp] theorem State.setRstate_rdata (r : RState) : (s.setRstate r).rdata = s.rdata := rfl
@[simp] theorem State.setRstate_epoch (r : RState) : (s.setRstate r).epoch = s.epoch := rfl

/-! ### setRingNodes -/

@[simp] theorem State.setRingNodes_cfg (n : Half) : (s.setRingNodes n).cfg = s.cfg := rfl
@[simp] theorem State.setRingNodes_ctrl (n : Half) : (s.setRingNodes n).ctrl = s.ctrl := rfl
@[simp] theorem State.setRingNodes_done (n : Half) : (s.setRingNodes n).done = s.done := rfl
@[simp] theorem State.setRingNodes_error (n : Half) : (s.setRingNodes n).error = s.error := rfl
@[simp] theorem State.setRingNodes_rstate (n : Half) : (s.setRingNodes n).rstate = s.rstate := rfl
@[simp] theorem State.setRingNodes_dataIn (n : Half) : (s.setRingNodes n).dataIn = s.dataIn := rfl
@[simp] theorem State.setRingNodes_result (n : Half) : (s.setRingNodes n).result = s.result := rfl
@[simp] theorem State.setRingNodes_crc (n : Half) : (s.setRingNodes n).crc = s.crc := rfl
@[simp] theorem State.setRingNodes_ringCount (n : Half) : (s.setRingNodes n).ringCount = s.ringCount := rfl
@[simp] theorem State.setRingNodes_ringNodes (n : Half) : (s.setRingNodes n).ringNodes = n := rfl
@[simp] theorem State.setRingNodes_lk (n : Half) : (s.setRingNodes n).lk = s.lk := rfl
@[simp] theorem State.setRingNodes_digest (n : Half) : (s.setRingNodes n).digest = s.digest := rfl
@[simp] theorem State.setRingNodes_ring (n : Half) : (s.setRingNodes n).ring = s.ring := rfl
@[simp] theorem State.setRingNodes_md5 (n : Half) : (s.setRingNodes n).md5 = s.md5 := rfl
@[simp] theorem State.setRingNodes_latch (n : Half) : (s.setRingNodes n).latch = s.latch := rfl
@[simp] theorem State.setRingNodes_script (n : Half) : (s.setRingNodes n).script = s.script := rfl
@[simp] theorem State.setRingNodes_rdata (n : Half) : (s.setRingNodes n).rdata = s.rdata := rfl
@[simp] theorem State.setRingNodes_epoch (n : Half) : (s.setRingNodes n).epoch = s.epoch := rfl

/-! ### setRingCount -/

@[simp] theorem State.setRingCount_cfg (c : Word) : (s.setRingCount c).cfg = s.cfg := rfl
@[simp] theorem State.setRingCount_ctrl (c : Word) : (s.setRingCount c).ctrl = s.ctrl := rfl
@[simp] theorem State.setRingCount_done (c : Word) : (s.setRingCount c).done = s.done := rfl
@[simp] theorem State.setRingCount_error (c : Word) : (s.setRingCount c).error = s.error := rfl
@[simp] theorem State.setRingCount_rstate (c : Word) : (s.setRingCount c).rstate = s.rstate := rfl
@[simp] theorem State.setRingCount_dataIn (c : Word) : (s.setRingCount c).dataIn = s.dataIn := rfl
@[simp] theorem State.setRingCount_result (c : Word) : (s.setRingCount c).result = s.result := rfl
@[simp] theorem State.setRingCount_crc (c : Word) : (s.setRingCount c).crc = s.crc := rfl
@[simp] theorem State.setRingCount_ringCount (c : Word) : (s.setRingCount c).ringCount = c := rfl
@[simp] theorem State.setRingCount_ringNodes (c : Word) : (s.setRingCount c).ringNodes = s.ringNodes := rfl
@[simp] theorem State.setRingCount_lk (c : Word) : (s.setRingCount c).lk = s.lk := rfl
@[simp] theorem State.setRingCount_digest (c : Word) : (s.setRingCount c).digest = s.digest := rfl
@[simp] theorem State.setRingCount_ring (c : Word) : (s.setRingCount c).ring = s.ring := rfl
@[simp] theorem State.setRingCount_md5 (c : Word) : (s.setRingCount c).md5 = s.md5 := rfl
@[simp] theorem State.setRingCount_latch (c : Word) : (s.setRingCount c).latch = s.latch := rfl
@[simp] theorem State.setRingCount_script (c : Word) : (s.setRingCount c).script = s.script := rfl
@[simp] theorem State.setRingCount_rdata (c : Word) : (s.setRingCount c).rdata = s.rdata := rfl
@[simp] theorem State.setRingCount_epoch (c : Word) : (s.setRingCount c).epoch = s.epoch := rfl

/-! ### setRingEntry -/

@[simp] theorem State.setRingEntry_cfg (i : Nat) (e : RingPoint) : (s.setRingEntry i e).cfg = s.cfg := rfl
@[simp] theorem State.setRingEntry_ctrl (i : Nat) (e : RingPoint) : (s.setRingEntry i e).ctrl = s.ctrl := rfl
@[simp] theorem State.setRingEntry_done (i : Nat) (e : RingPoint) : (s.setRingEntry i e).done = s.done := rfl
@[simp] theorem State.setRingEntry_error (i : Nat) (e : RingPoint) : (s.setRingEntry i e).error = s.error := rfl
@[simp] theorem State.setRingEntry_rstate (i : Nat) (e : RingPoint) : (s.setRingEntry i e).rstate = s.rstate := rfl
@[simp] theorem State.setRingEntry_dataIn (i : Nat) (e : RingPoint) : (s.setRingEntry i e).dataIn = s.dataIn := rfl
@[simp] theorem State.setRingEntry_result (i : Nat) (e : RingPoint) : (s.setRingEntry i e).result = s.result := rfl
@[simp] theorem State.setRingEntry_crc (i : Nat) (e : RingPoint) : (s.setRingEntry i e).crc = s.crc := rfl
@[simp] theorem State.setRingEntry_ringCount (i : Nat) (e : RingPoint) : (s.setRingEntry i e).ringCount = s.ringCount := rfl
@[simp] theorem State.setRingEntry_ringNodes (i : Nat) (e : RingPoint) : (s.setRingEntry i e).ringNodes = s.ringNodes := rfl
@[simp] theorem State.setRingEntry_lk (i : Nat) (e : RingPoint) : (s.setRingEntry i e).lk = s.lk := rfl
@[simp] theorem State.setRingEntry_digest (i : Nat) (e : RingPoint) : (s.setRingEntry i e).digest = s.digest := rfl
@[simp] theorem State.setRingEntry_ring (i : Nat) (e : RingPoint) : (s.setRingEntry i e).ring = Memory.write s.ring i e := rfl
@[simp] theorem State.setRingEntry_md5 (i : Nat) (e : RingPoint) : (s.setRingEntry i e).md5 = s.md5 := rfl
@[simp] theorem State.setRingEntry_latch (i : Nat) (e : RingPoint) : (s.setRingEntry i e).latch = s.latch := rfl
@[simp] theorem State.setRingEntry_script (i : Nat) (e : RingPoint) : (s.setRingEntry i e).script = s.script := rfl
@[simp] theorem State.setRingEntry_rdata (i : Nat) (e : RingPoint) : (s.setRingEntry i e).rdata = s.rdata := rfl
@[simp] theorem State.setRingEntry_epoch (i : Nat) (e : RingPoint) : (s.setRingEntry i e).epoch = s.epoch := rfl

/-! ### setLookup -/

@[simp] theorem State.setLookup_cfg (r : Lookup) : (s.setLookup r).cfg = s.cfg := rfl
@[simp] theorem State.setLookup_ctrl (r : Lookup) : (s.setLookup r).ctrl = s.ctrl := rfl
@[simp] theorem State.setLookup_done (r : Lookup) : (s.setLookup r).done = s.done := rfl
@[simp] theorem State.setLookup_error (r : Lookup) : (s.setLookup r).error = s.error := rfl
@[simp] theorem State.setLookup_rstate (r : Lookup) : (s.setLookup r).rstate = s.rstate := rfl
@[simp] theorem State.setLookup_dataIn (r : Lookup) : (s.setLookup r).dataIn = s.dataIn := rfl
@[simp] theorem State.setLookup_result (r : Lookup) : (s.setLookup r).result = s.result := rfl
@[simp] theorem State.setLookup_crc (r : Lookup) : (s.setLookup r).crc = s.crc := rfl
@[simp] theorem State.setLookup_ringCount (r : Lookup) : (s.setLookup r).ringCount = s.ringCount := rfl
@[simp] theorem State.setLookup_ringNodes (r : Lookup) : (s.setLookup r).ringNodes = s.ringNodes := rfl
@[simp] theorem State.setLookup_lk (r : Lookup) : (s.setLookup r).lk = r := rfl
@[simp] theorem State.setLookup_digest (r : Lookup) : (s.setLookup r).digest = s.digest := rfl
@[simp] theorem State.setLookup_ring (r : Lookup) : (s.setLookup r).ring = s.ring := rfl
@[simp] theorem State.setLookup_md5 (r : Lookup) : (s.setLookup r).md5 = s.md5 := rfl
@[simp] theorem State.setLookup_latch (r : Lookup) : (s.setLookup r).latch = s.latch := rfl
@[simp] theorem State.setLookup_script (r : Lookup) : (s.setLookup r).script = s.script := rfl
@[simp] theorem State.setLookup_rdata (r : Lookup) : (s.setLookup r).rdata = s.rdata := rfl
@[simp] theorem State.setLookup_epoch (r : Lookup) : (s.setLookup r).epoch = s.epoch := rfl

/-! ### setCtrl -/

@[simp] theorem State.setCtrl_cfg (c : Ctrl) : (s.setCtrl c).cfg = s.cfg := rfl
@[simp] theorem State.setCtrl_ctrl (c : Ctrl) : (s.setCtrl c).ctrl = c := rfl
@[simp] theorem State.setCtrl_done (c : Ctrl) : (s.setCtrl c).done = s.done := rfl
@[simp] theorem State.setCtrl_error (c : Ctrl) : (s.setCtrl c).error = s.error := rfl
@[simp] theorem State.setCtrl_rstate (c : Ctrl) : (s.setCtrl c).rstate = s.rstate := rfl
@[simp] theorem State.setCtrl_dataIn (c : Ctrl) : (s.setCtrl c).dataIn = s.dataIn := rfl
@[simp] theorem State.setCtrl_result (c : Ctrl) : (s.setCtrl c).result = s.result := rfl
@[simp] theorem State.setCtrl_crc (c : Ctrl) : (s.setCtrl c).crc = s.crc := rfl
@[simp] theorem State.setCtrl_ringCount (c : Ctrl) : (s.setCtrl c).ringCount = s.ringCount := rfl
@[simp] theorem State.setCtrl_ringNodes (c : Ctrl) : (s.setCtrl c).ringNodes = s.ringNodes := rfl
@[simp] theorem State.setCtrl_lk (c : Ctrl) : (s.setCtrl c).lk = s.lk := rfl
@[simp] theorem State.setCtrl_digest (c : Ctrl) : (s.setCtrl c).digest = s.digest := rfl
@[simp] theorem State.setCtrl_ring (c : Ctrl) : (s.setCtrl c).ring = s.ring := rfl
@[simp] theorem State.setCtrl_md5 (c : Ctrl) : (s.setCtrl c).md5 = s.md5 := rfl
@[simp] theorem State.setCtrl_latch (c : Ctrl) : (s.setCtrl c).latch = s.latch := rfl
@[simp] theorem State.setCtrl_script (c : Ctrl) : (s.setCtrl c).script = s.script := rfl
@[simp] theorem State.setCtrl_rdata (c : Ctrl) : (s.setCtrl c).rdata = s.rdata := rfl
@[simp] theorem State.setCtrl_epoch (c : Ctrl) : (s.setCtrl c).epoch = s.epoch := rfl

/-! ### setDataIn -/

@[simp] theorem State.setDataIn_cfg (v : Word) : (s.setDataIn v).cfg = s.cfg := rfl
@[simp] theorem State.setDataIn_ctrl (v : Word) : (s.setDataIn v).ctrl = s.ctrl := rfl
@[simp] theorem State.setDataIn_done (v : Word) : (s.setDataIn v).done = s.done := rfl
@[simp] theorem State.setDataIn_error (v : Word) : (s.setDataIn v).error = s.error := rfl
@[simp] theorem State.setDataIn_rstate (v : Word) : (s.setDataIn v).rstate = s.rstate := rfl
@[simp] theorem State.setDataIn_dataIn (v : Word) : (s.setDataIn v).dataIn = v := rfl
@[simp] theorem State.setDataIn_result (v : Word) : (s.setDataIn v).result = s.result := rfl
@[simp] theorem State.setDataIn_crc (v : Word) : (s.setDataIn v).crc = s.crc := rfl
@[simp] theorem State.setDataIn_ringCount (v : Word) : (s.setDataIn v).ringCount = s.ringCount := rfl
@[simp] theorem State.setDataIn_ringNodes (v : Word) : (s.setDataIn v).ringNodes = s.ringNodes := rfl
@[simp] theorem State.setDataIn_lk (v : Word) : (s.setDataIn v).lk = s.lk := rfl
@[simp] theorem State.setDataIn_digest (v : Word) : (s.setDataIn v).digest = s.digest := rfl
@[simp] theorem State.setDataIn_ring (v : Word) : (s.setDataIn v).ring = s.ring := rfl
@[simp] theorem State.setDataIn_md5 (v : Word) : (s.setDataIn v).md5 = s.md5 := rfl
@[simp] theorem State.setDataIn_latch (v : Word) : (s.setDataIn v).latch = s.latch := rfl
@[simp] theorem State.setDataIn_script (v : Word) : (s.setDataIn v).script = s.script := rfl
@[simp] theorem State.setDataIn_rdata (v : Word) : (s.setDataIn v).rdata = s.rdata := rfl
@[simp] theorem State.setDataIn_epoch (v : Word) : (s.setDataIn v).epoch = s.epoch := rfl

/-! ### setRdata -/

@[simp] theorem State.setRdata_cfg (v : Word) : (s.setRdata v).cfg = s.cfg := rfl
@[simp] theorem State.setRdata_ctrl (v : Word) : (s.setRdata v).ctrl = s.ctrl := rfl
@[simp] theorem State.setRdata_done (v : Word) : (s.setRdata v).done = s.done := rfl
@[simp] theorem State.setRdata_error (v : Word) : (s.setRdata v).error = s.error := rfl
@[simp] theorem State.setRdata_rstate (v : Word) : (s.setRdata v).rstate = s.rstate := rfl
@[simp] theorem State.setRdata_dataIn (v : Word) : (s.setRdata v).dataIn = s.dataIn := rfl
@[simp] theorem State.setRdata_result (v : Word) : (s.setRdata v).result = s.result := rfl
@[simp] theorem State.setRdata_crc (v : Word) : (s.setRdata v).crc = s.crc := rfl
@[simp] theorem State.setRdata_ringCount (v : Word) : (s.setRdata v).ringCount = s.ringCount := rfl
@[simp] theorem State.setRdata_ringNodes (v : Word) : (s.setRdata v).ringNodes = s.ringNodes := rfl
@[simp] theorem State.setRdata_lk (v : Word) : (s.setRdata v).lk = s.lk := rfl
@[simp] theorem State.setRdata_digest (v : Word) : (s.setRdata v).digest = s.digest := rfl
@[simp] theorem State.setRdata_ring (v : Word) : (s.setRdata v).ring = s.ring := rfl
@[simp] theorem State.setRdata_md5 (v : Word) : (s.setRdata v).md5 = s.md5 := rfl
@[simp] theorem State.setRdata_latch (v : Word) : (s.setRdata v).latch = s.latch := rfl
@[simp] theorem State.setRdata_script (v : Word) : (s.setRdata v).script = s.script := rfl
@[simp] theorem State.setRdata_rdata (v : Word) : (s.setRdata v).rdata = some v := rfl
@[simp] theorem State.setRdata_epoch (v : Word) : (s.setRdata v).epoch = s.epoch := rfl

/-! ### setScript -/

@[simp] theorem State.setScript_cfg (es : List PortEvent) : (s.setScript es).cfg = s.cfg := rfl
@[simp] theorem State.setScript_ctrl (es : List PortEvent) : (s.setScript es).ctrl = s.ctrl := rfl
@[simp] theorem State.setScript_done (es : List PortEvent) : (s.setScript es).done = s.done := rfl
@[simp] theorem State.setScript_error (es : List PortEvent) : (s.setScript es).error = s.error := rfl
@[simp] theorem State.setScript_rstate (es : List PortEvent) : (s.setScript es).rstate = s.rstate := rfl
@[simp] theorem State.setScript_dataIn (es : List PortEvent) : (s.setScript es).dataIn = s.dataIn := rfl
@[simp] theorem State.setScript_result (es : List PortEvent) : (s.setScript es).result = s.result := rfl
@[simp] theorem State.setScript_crc (es : List PortEvent) : (s.setScript es).crc = s.crc := rfl
@[simp] theorem State.setScript_ringCount (es : List PortEvent) : (s.setScript es).ringCount = s.ringCount := rfl
@[simp] theorem State.setScript_ringNodes (es : List PortEvent) : (s.setScript es).ringNodes = s.ringNodes := rfl
@[simp] theorem State.setScript_lk (es : List PortEvent) : (s.setScript es).lk = s.lk := rfl
@[simp] theorem State.setScript_digest (es : List PortEvent) : (s.setScript es).digest = s.digest := rfl
@[simp] theorem State.setScript_ring (es : List PortEvent) : (s.setScript es).ring = s.ring := rfl
@[simp] theorem State.setScript_md5 (es : List PortEvent) : (s.setScript es).md5 = s.md5 := rfl
@[simp] theorem State.setScript_latch (es : List PortEvent) : (s.setScript es).latch = s.latch := rfl
@[simp] theorem State.setScript_script (es : List PortEvent) : (s.setScript es).script = es := rfl
@[simp] theorem State.setScript_rdata (es : List PortEvent) : (s.setScript es).rdata = s.rdata := rfl
@[simp] theorem State.setScript_epoch (es : List PortEvent) : (s.setScript es).epoch = s.epoch := rfl

/-! ### recordError: the first error is kept (60_exceptions.md R104, R107) -/

@[simp] theorem State.recordError_error (c : ErrCode) : (s.recordError c).error = s.error.or (some c) := by
  unfold State.recordError; cases h : s.error <;> simp [h]
@[simp] theorem State.recordError_cfg (c : ErrCode) : (s.recordError c).cfg = s.cfg := by
  unfold State.recordError; split <;> rfl
@[simp] theorem State.recordError_ctrl (c : ErrCode) : (s.recordError c).ctrl = s.ctrl := by
  unfold State.recordError; split <;> rfl
@[simp] theorem State.recordError_done (c : ErrCode) : (s.recordError c).done = s.done := by
  unfold State.recordError; split <;> rfl
@[simp] theorem State.recordError_rstate (c : ErrCode) : (s.recordError c).rstate = s.rstate := by
  unfold State.recordError; split <;> rfl
@[simp] theorem State.recordError_dataIn (c : ErrCode) : (s.recordError c).dataIn = s.dataIn := by
  unfold State.recordError; split <;> rfl
@[simp] theorem State.recordError_result (c : ErrCode) : (s.recordError c).result = s.result := by
  unfold State.recordError; split <;> rfl
@[simp] theorem State.recordError_crc (c : ErrCode) : (s.recordError c).crc = s.crc := by
  unfold State.recordError; split <;> rfl
@[simp] theorem State.recordError_ringCount (c : ErrCode) : (s.recordError c).ringCount = s.ringCount := by
  unfold State.recordError; split <;> rfl
@[simp] theorem State.recordError_ringNodes (c : ErrCode) : (s.recordError c).ringNodes = s.ringNodes := by
  unfold State.recordError; split <;> rfl
@[simp] theorem State.recordError_lk (c : ErrCode) : (s.recordError c).lk = s.lk := by
  unfold State.recordError; split <;> rfl
@[simp] theorem State.recordError_digest (c : ErrCode) : (s.recordError c).digest = s.digest := by
  unfold State.recordError; split <;> rfl
@[simp] theorem State.recordError_ring (c : ErrCode) : (s.recordError c).ring = s.ring := by
  unfold State.recordError; split <;> rfl
@[simp] theorem State.recordError_md5 (c : ErrCode) : (s.recordError c).md5 = s.md5 := by
  unfold State.recordError; split <;> rfl
@[simp] theorem State.recordError_latch (c : ErrCode) : (s.recordError c).latch = s.latch := by
  unfold State.recordError; split <;> rfl
@[simp] theorem State.recordError_script (c : ErrCode) : (s.recordError c).script = s.script := by
  unfold State.recordError; split <;> rfl
@[simp] theorem State.recordError_rdata (c : ErrCode) : (s.recordError c).rdata = s.rdata := by
  unfold State.recordError; split <;> rfl
@[simp] theorem State.recordError_epoch (c : ErrCode) : (s.recordError c).epoch = s.epoch := by
  unfold State.recordError; split <;> rfl

/-! ### applyReset (70_reset_and_hazards.md R118) -/

@[simp] theorem State.applyReset_cfg : s.applyReset.cfg = s.cfg := rfl
@[simp] theorem State.applyReset_ctrl : s.applyReset.ctrl = { crcslice := false, irqen := false } := rfl
@[simp] theorem State.applyReset_done : s.applyReset.done = false := rfl
@[simp] theorem State.applyReset_error : s.applyReset.error = none := rfl
@[simp] theorem State.applyReset_rstate : s.applyReset.rstate = .empty := rfl
@[simp] theorem State.applyReset_dataIn : s.applyReset.dataIn = 0 := rfl
@[simp] theorem State.applyReset_result : s.applyReset.result = 0 := rfl
@[simp] theorem State.applyReset_crc : s.applyReset.crc = crcInitial := rfl
@[simp] theorem State.applyReset_ringCount : s.applyReset.ringCount = 0 := rfl
@[simp] theorem State.applyReset_ringNodes : s.applyReset.ringNodes = 0 := rfl
@[simp] theorem State.applyReset_lk : s.applyReset.lk = { wrap := false, index := 0, point := 0, node := 0 } := rfl
@[simp] theorem State.applyReset_digest : s.applyReset.digest = { d0 := 0, d1 := 0, d2 := 0, d3 := 0 } := rfl
@[simp] theorem State.applyReset_ring : s.applyReset.ring = [] := rfl
@[simp] theorem State.applyReset_md5 : s.applyReset.md5 = { chain := md5Iv, buf := [], level := 0, len := 0 } := rfl
@[simp] theorem State.applyReset_latch : s.applyReset.latch = none := rfl
@[simp] theorem State.applyReset_script : s.applyReset.script = s.script := rfl
@[simp] theorem State.applyReset_rdata : s.applyReset.rdata = s.rdata := rfl
@[simp] theorem State.applyReset_epoch : s.applyReset.epoch = s.epoch + 1 := rfl

/-! ### Views -/

@[simp] theorem State.busy_finish : s.finish.busy = false := rfl
@[simp] theorem State.busy_setScript (es : List PortEvent) : (s.setScript es).busy = s.busy := rfl
@[simp] theorem State.ringEntry_finish (i : Nat) : s.finish.ringEntry i = s.ringEntry i := rfl
@[simp] theorem State.ringEntry_setScript (es : List PortEvent) (i : Nat) : (s.setScript es).ringEntry i = s.ringEntry i := rfl
@[simp] theorem State.bufByte_finish (k : Nat) : s.finish.bufByte k = s.bufByte k := rfl
@[simp] theorem State.setScript_self : s.setScript s.script = s := rfl
@[simp] theorem State.setScript_setScript (es es' : List PortEvent) : (s.setScript es).setScript es' = s.setScript es' := rfl

end Sys2Proof.Machine
end

