-- ==== Sys2Proof/Laws/Memory.lean ====
section
/-! SUPPORT. The laws of the two memories: read after write, the canonical form kept, the addresses listed. -/

namespace Sys2Proof.Machine

variable {α : Type}

@[simp] theorem Memory.read?_nil (i : Nat) : Memory.read? ([] : List (Nat × α)) i = none := rfl

@[simp] theorem Memory.wf_nil : Memory.wf ([] : List (Nat × α)) = true := rfl

theorem Memory.read?_write_same (m : List (Nat × α)) (i : Nat) (v : α) : Memory.read? (Memory.write m i v) i = some v := by
  induction m with
  | nil => simp [Memory.write, Memory.read?]
  | cons e rest ih =>
    obtain ⟨a, x⟩ := e
    by_cases h1 : i < a
    · simp [Memory.write, Memory.read?, h1]
    · by_cases h2 : a = i
      · simp [Memory.write, Memory.read?, h2]
      · simp [Memory.write, Memory.read?, h1, h2, ih]

theorem Memory.read?_write_other (m : List (Nat × α)) {i j : Nat} (v : α) (h : j ≠ i) :
    Memory.read? (Memory.write m i v) j = Memory.read? m j := by
  induction m with
  | nil => simp [Memory.write, Memory.read?, h.symm]
  | cons e rest ih =>
    obtain ⟨a, x⟩ := e
    by_cases h1 : i < a
    · simp [Memory.write, Memory.read?, h1, h.symm]
    · by_cases h2 : a = i
      · subst h2; simp [Memory.write, Memory.read?, h.symm]
      · simp [Memory.write, Memory.read?, h1, h2, ih]

/-- Everything a read after a write can give. -/
theorem Memory.read?_write (m : List (Nat × α)) (i j : Nat) (v : α) :
    Memory.read? (Memory.write m i v) j = if j = i then some v else Memory.read? m j := by
  split
  · next h => subst h; exact Memory.read?_write_same m j v
  · next h => exact Memory.read?_write_other m v h

theorem Memory.mem_write {m : List (Nat × α)} {i : Nat} {v : α} {e : Nat × α} (h : e ∈ Memory.write m i v) :
    e = (i, v) ∨ e ∈ m := by
  induction m with
  | nil => simpa [Memory.write] using h
  | cons f rest ih =>
    obtain ⟨a, x⟩ := f
    simp only [Memory.write] at h
    split at h
    · simpa using h
    · split at h
      · rcases List.mem_cons.mp h with h | h
        · exact .inl h
        · exact .inr (List.mem_cons_of_mem _ h)
      · rcases List.mem_cons.mp h with h | h
        · exact .inr (h ▸ List.mem_cons_self)
        · exact (ih h).imp id (List.mem_cons_of_mem _)

/-- The canonical form, of a list with a head: the head's address is below every other. -/
theorem Memory.wf_cons (a : Nat) (x : α) (rest : List (Nat × α)) :
    Memory.wf ((a, x) :: rest) = true ↔ (∀ e ∈ rest, a < e.1) ∧ Memory.wf rest = true := by
  induction rest generalizing a x with
  | nil => simp [Memory.wf]
  | cons f rest ih =>
    obtain ⟨b, y⟩ := f
    simp only [Memory.wf, Bool.and_eq_true, decide_eq_true_eq, List.mem_cons, forall_eq_or_imp]
    constructor
    · rintro ⟨hab, hw⟩
      exact ⟨⟨hab, fun e he => lt_trans hab (((ih b y).mp hw).1 e he)⟩, hw⟩
    · rintro ⟨⟨hab, _⟩, hw⟩
      exact ⟨hab, hw⟩

/-- A write keeps the canonical form. -/
theorem Memory.wf_write (m : List (Nat × α)) (i : Nat) (v : α) (h : Memory.wf m = true) :
    Memory.wf (Memory.write m i v) = true := by
  induction m with
  | nil => rfl
  | cons e rest ih =>
    obtain ⟨a, x⟩ := e
    obtain ⟨hlt, hw⟩ := (Memory.wf_cons a x rest).mp h
    simp only [Memory.write]
    split
    · next hia => exact (Memory.wf_cons _ _ _).mpr ⟨by
        intro e he
        rcases List.mem_cons.mp he with rfl | he
        · exact hia
        · exact lt_trans hia (hlt e he), h⟩
    · split
      · next hai => subst hai; exact (Memory.wf_cons _ _ _).mpr ⟨hlt, hw⟩
      · next hia hai =>
        refine (Memory.wf_cons _ _ _).mpr ⟨fun e he => ?_, ih hw⟩
        rcases Memory.mem_write he with rfl | he
        · simp only; omega
        · exact hlt e he

/-! ### The ring table and the block buffer -/

theorem State.ringEntry_setRingEntry (s : State) (i j : Nat) (e : RingPoint) :
    (s.setRingEntry i e).ringEntry j = if j = i then e else s.ringEntry j := by
  simp only [State.ringEntry, State.setRingEntry_ring, State.setRingEntry_epoch, Memory.read?_write]
  split <;> rfl

theorem bufferByte_write (epoch : Nat) (buf : List Host.Cell) (i j : Nat) (b : Byte) :
    bufferByte epoch (Memory.write buf i b) j = if j = i then b else bufferByte epoch buf j := by
  simp only [bufferByte, Memory.read?_write]
  split <;> rfl

end Sys2Proof.Machine
end

