-- ==== Sys2Proof/Laws/Ops.lean ====
section
/-! SUPPORT. What the shared operations can do: `complete`, `recordError`, `acceptCommand`. -/

namespace Sys2Proof.Machine

theorem complete_idle {s : State} (body : Latch → Except ErrCode State) (h : s.latch = none) :
    complete s body = .refused .noPendingCommand := by
  simp [complete, h]

theorem complete_ok {s t : State} {l : Latch} {body : Latch → Except ErrCode State} (h : s.latch = some l)
    (hb : body l = .ok t) : complete s body = .next t.finish := by
  simp [complete, h, hb]

theorem complete_error {s : State} {l : Latch} {c : ErrCode} {body : Latch → Except ErrCode State}
    (h : s.latch = some l) (hb : body l = .error c) : complete s body = .next (s.recordError c).finish := by
  simp [complete, h, hb]

/-- Everything a completion that answers a next state can be: the effect of the family rule, or its error recorded. -/
theorem complete_next {s t : State} {body : Latch → Except ErrCode State} (h : complete s body = .next t) :
    ∃ l, s.latch = some l ∧
      ((∃ u, body l = .ok u ∧ t = u.finish) ∨ ∃ c, body l = .error c ∧ t = (s.recordError c).finish) := by
  unfold complete at h
  split at h
  · cases h
  · next l hl =>
    refine ⟨l, hl, ?_⟩
    split at h
    · next u hu => exact .inl ⟨u, hu, (by simpa using h.symm)⟩
    · next c hc => exact .inr ⟨c, hc, (by simpa using h.symm)⟩

theorem complete_ne_fault (s : State) (body : Latch → Except ErrCode State) (f : Fault) : complete s body ≠ .fault f := by
  unfold complete
  split
  · simp
  · split <;> simp

theorem complete_refused {s : State} {body : Latch → Except ErrCode State} {r : Refusal} (h : complete s body = .refused r) :
    s.latch = none ∧ r = .noPendingCommand := by
  unfold complete at h
  split at h
  · next hl => exact ⟨hl, by simpa using h.symm⟩
  · split at h <;> simp at h

theorem State.recordError_eq (s : State) (c : ErrCode) : s.recordError c = { s with error := s.error.or (some c) } := by
  unfold State.recordError
  split
  · next h => simp [h]
  · next e h =>
    have h' : s.error.or (some c) = s.error := by simp [h]
    rw [h']

/-- Everything acceptance can do (30_encoding.md R63). -/
theorem State.acceptCommand_cases (s : State) (v : Word) :
    (∃ l, s.latch = some l ∧ s.acceptCommand v = s.recordError .busy) ∨
    (s.latch = none ∧ (∃ e, decode v = .error e) ∧ s.acceptCommand v = (s.recordError .illegalCmd).setDone) ∨
    (s.latch = none ∧ (∃ i, decode v = .ok i) ∧ s.acceptCommand v = s.setLatch (s.latchOf v)) := by
  unfold State.acceptCommand State.busy
  cases hl : s.latch with
  | some l => simp
  | none => cases hd : decode v <;> simp

end Sys2Proof.Machine
end

