-- ==== Sys2Proof/Laws/Exec.lean ====
section
/-! SUPPORT. Every meaning is the completion of its family rule: one inversion for all of `exec`. -/

namespace Sys2Proof.Machine

/-- The family rule of a command, as its meaning hands it to `complete`. -/
def commandBody (i : Instr) (s : State) (l : Latch) : Except ErrCode State :=
  match i with
  | .nop => .ok s
  | .crcInit => .ok (s.setCrc crcInitial)
  | .crcUpdate n => .ok (s.setCrc (crcBytes s.crc (bytesOf l.opnd n)))
  | .crcFinal => .ok ((s.setResult (crcSlice (~~~ s.crc) l.slice)).setCrc crcInitial)
  | .md5Init => .ok (s.setMd5 (md5Fresh s.md5.buf))
  | .md5Update n => .ok (s.setMd5 (md5AbsorbBytes s.epoch s.md5 (bytesOf l.opnd n)))
  | .md5Final =>
    .ok (((s.setDigest (digestOf (chainBytes (md5Finish s.epoch s.md5).chain))).setResult
      (digestOf (chainBytes (md5Finish s.epoch s.md5).chain)).d0).setMd5 (md5Fresh (md5Finish s.epoch s.md5).buf))
  | .ringBegin nodes =>
    if nodes = 0 then .error .badOperand
    else .ok (((s.setRingNodes nodes).setRingCount 0).setRstate .building)
  | .ringAppend node =>
    if s.rstate ≠ .building then .error .ringState
    else if s.count = s.cfg.ringDepth then .error .ringFull
    else if s.ringNodes ≤ node then .error .badOperand
    else if 0 < s.count ∧ l.opnd < (s.ringEntry (s.count - 1)).point then .error .ringOrder
    else .ok ((s.setRingEntry s.count { point := l.opnd, node := node }).setRingCount (s.ringCount + 1))
  | .ringCommit =>
    if s.rstate ≠ .building then .error .ringState
    else if s.ringCount = 0 then .error .emptyRing
    else .ok (s.setRstate .ready)
  | .ringLookup src =>
    match s.rstate with
    | .empty => .error .emptyRing
    | .building => .error .ringNotReady
    | .ready => .ok (s.setLookup (s.lookupOf (queryOf src l)))

theorem exec_eq_complete (i : Instr) (s : State) : exec i s = complete s (commandBody i s) := by
  cases i <;> rfl

/-- Everything a command that answers a next state can be: its effect, or its error recorded. -/
theorem exec_next {i : Instr} {s t : State} (h : exec i s = .next t) :
    ∃ l, s.latch = some l ∧
      ((∃ u, commandBody i s l = .ok u ∧ t = u.finish) ∨
       ∃ c, commandBody i s l = .error c ∧ t = (s.recordError c).finish) :=
  complete_next (exec_eq_complete i s ▸ h)

theorem exec_ne_fault (i : Instr) (s : State) (f : Fault) : exec i s ≠ .fault f :=
  exec_eq_complete i s ▸ complete_ne_fault s _ f

/-- A command is refused only where none is pending (60_exceptions.md R104). -/
theorem exec_refused {i : Instr} {s : State} {r : Refusal} (h : exec i s = .refused r) :
    s.latch = none ∧ r = .noPendingCommand :=
  complete_refused (exec_eq_complete i s ▸ h)

end Sys2Proof.Machine
end

