-- ==== Sys2Proof/Laws/Step.lean ====
section
/-! SUPPORT. What a host access, the engine's turn and a step can do. -/

namespace Sys2Proof.Machine

/-- The access reaches the register `r` (20_memory.md R43, R44). -/
theorem target_ok {c : Config} {addr width : Nat} {r : Reg} (h : target c addr width = .ok r) :
    c.khgBase ≤ addr ∧ addr < c.khgBase + 128 ∧ width = 4 ∧ (addr - c.khgBase) % 4 = 0 ∧
      r = Reg.ofSlot ((addr - c.khgBase) / 4) := by
  unfold target at h
  split at h
  · cases h
  · split at h
    · cases h
    · split at h
      · cases h
      · injection h with h
        exact ⟨by omega, by omega, by omega, by omega, h.symm⟩

theorem target_slot (c : Config) (slot : Nat) (h : slot < 32) : target c (c.khgBase + 4 * slot) 4 = .ok (Reg.ofSlot slot) := by
  unfold target
  rw [if_neg (by omega), if_neg (by omega), if_neg (by omega)]
  congr 2
  omega

/-- Everything a host access that answers a next state can be. -/
theorem hostStep_next {a : Access} {s t : State} (h : hostStep a s = .next t) :
    (∃ addr w r, a = .read addr w ∧ target s.cfg addr w = .ok r ∧ t = s.setRdata (s.readReg r)) ∨
    (∃ addr w v r, a = .write addr w v ∧ target s.cfg addr w = .ok r ∧ t = s.writeReg r v) := by
  unfold hostStep at h
  split at h
  · split at h
    · cases h
    · next r hr => exact .inl ⟨_, _, r, rfl, hr, by simpa using h.symm⟩
  · split at h
    · cases h
    · next r hr => exact .inr ⟨_, _, _, r, rfl, hr, by simpa using h.symm⟩

/-- Everything a register write can be. -/
theorem State.writeReg_cases (s : State) (r : Reg) (v : Word) :
    (r = .ctrl ∧ s.writeReg r v = s.setCtrl (ctrlOf v)) ∨ (r = .status ∧ s.writeReg r v = s.writeStatus v) ∨
    (r = .cmd ∧ s.writeReg r v = s.acceptCommand v) ∨ (r = .dataIn ∧ s.writeReg r v = s.setDataIn v) ∨
    (r ≠ .ctrl ∧ r ≠ .status ∧ r ≠ .cmd ∧ r ≠ .dataIn ∧ s.writeReg r v = s) := by
  cases r <;> simp [State.writeReg]

/-- The W1C write of STATUS, by its two bits (20_memory.md R48). -/
theorem State.writeStatus_eq (s : State) (v : Word) :
    s.writeStatus v = { s with done := s.done && !v.getLsbD 1, error := if v.getLsbD 2 then none else s.error } := by
  unfold State.writeStatus
  cases v.getLsbD 1 <;> cases v.getLsbD 2 <;> simp [State.clearDone, State.clearError]

/-- Everything the engine's turn that answers a next state can be. -/
theorem engineStep_next {s t : State} (h : engineStep s = .next t) :
    (s.latch = none ∧ t = s) ∨ ∃ l i, s.latch = some l ∧ decode l.word = .ok i ∧ exec i s = .next t := by
  unfold engineStep at h
  split at h
  · next hl => exact .inl ⟨hl, by simpa using h.symm⟩
  · next l hl =>
    split at h
    · next i hi => exact .inr ⟨l, i, hl, hi, h⟩
    · cases h

theorem engineStep_pending {s : State} {l : Latch} {i : Instr} (hl : s.latch = some l) (hd : decode l.word = .ok i) :
    engineStep s = exec i s := by
  simp [engineStep, hl, hd]

theorem engineStep_idle {s : State} (hl : s.latch = none) : engineStep s = .next s := by
  simp [engineStep, hl]

/-- Everything a step that answers a next state can be (00_scope.md R5). -/
theorem step_next {s t : State} (h : step s = .next t) :
    (s.script = [] ∧ engineStep s = .next t) ∨
    (∃ a es, s.script = .host a :: es ∧ hostStep a (s.setScript es) = .next t) ∨
    (∃ es, s.script = .engine :: es ∧ engineStep (s.setScript es) = .next t) ∨
    (∃ es, s.script = .reset :: es ∧ t = (s.setScript es).applyReset) := by
  unfold step runSchedule at h
  split at h
  · next hs => exact .inl ⟨hs, h⟩
  · next a es hs => exact .inr (.inl ⟨a, es, hs, h⟩)
  · next es hs => exact .inr (.inr (.inl ⟨es, hs, h⟩))
  · next es hs => exact .inr (.inr (.inr ⟨es, hs, by simpa using h.symm⟩))

theorem step_empty {s : State} (h : s.script = []) : step s = engineStep s := by
  simp [step, runSchedule, h]

theorem step_host {s : State} {a : Access} {es : List PortEvent} (h : s.script = .host a :: es) :
    step s = hostStep a (s.setScript es) := by
  simp [step, runSchedule, h]

theorem step_engine {s : State} {es : List PortEvent} (h : s.script = .engine :: es) :
    step s = engineStep (s.setScript es) := by
  simp [step, runSchedule, h]

theorem step_reset {s : State} {es : List PortEvent} (h : s.script = .reset :: es) :
    step s = .next (s.setScript es).applyReset := by
  simp [step, runSchedule, h]

end Sys2Proof.Machine
end

