-- ==== Sys2Proof/Laws/Run.lean ====
section
/-! SUPPORT. Running a schedule: every operation leaves the rest of the schedule alone, and schedules compose. -/

namespace Sys2Proof.Machine

/-! ### The rest of the schedule goes along unchanged -/

theorem State.recordError_setScript (s : State) (es : List PortEvent) (c : ErrCode) :
    (s.setScript es).recordError c = (s.recordError c).setScript es := by
  simp only [State.recordError_eq]; rfl

theorem State.acceptCommand_setScript (s : State) (es : List PortEvent) (v : Word) :
    (s.setScript es).acceptCommand v = (s.acceptCommand v).setScript es := by
  unfold State.acceptCommand State.busy
  simp only [State.setScript_latch, State.recordError_setScript]
  split
  · rfl
  · split <;> rfl

theorem State.writeReg_setScript (s : State) (es : List PortEvent) (r : Reg) (v : Word) :
    (s.setScript es).writeReg r v = (s.writeReg r v).setScript es := by
  cases r <;> first | rfl | exact State.acceptCommand_setScript s es v | (simp only [State.writeReg, State.writeStatus_eq]; rfl)

theorem State.readReg_setScript (s : State) (es : List PortEvent) (r : Reg) : (s.setScript es).readReg r = s.readReg r := by
  cases r <;> rfl

theorem commandBody_setScript (i : Instr) (s : State) (es : List PortEvent) (l : Latch) :
    commandBody i (s.setScript es) l = (commandBody i s l).map (·.setScript es) := by
  cases i with
  | ringBegin n => simp only [commandBody]; split <;> rfl
  | ringAppend k =>
    have hc : (s.setScript es).count = s.count := rfl
    simp only [commandBody, State.ringEntry_setScript, hc, State.setScript_rstate, State.setScript_cfg,
      State.setScript_ringNodes]
    split; · rfl
    split; · rfl
    split; · rfl
    split <;> rfl
  | ringCommit =>
    by_cases h1 : s.rstate = .building <;> by_cases h2 : s.ringCount = 0#32 <;>
      (simp [commandBody, Except.map, h1, h2]; try rfl)
  | ringLookup src => simp only [commandBody, State.setScript_rstate]; split <;> rfl
  | _ => rfl

/-! ### Runs -/

/-- The schedule `es` takes `s` to `t`, whatever is scheduled after it. -/
def RunsTo (es : List PortEvent) (s t : State) : Prop :=
  ∀ rest, run es.length (s.setScript (es ++ rest)) = .next (t.setScript rest)

theorem run_succ (k : Nat) (s : State) :
    run (k + 1) s = match step s with
      | .next t => run k t
      | .fault r => .fault r
      | .refused r => .refused r := by
  refine (Host.Core.run.eq_2 Sys2Proof.core s k).trans ?_
  rw [show step s = Sys2Proof.core.step s from rfl]
  cases Sys2Proof.core.step s <;> rfl

theorem runsTo_nil (s : State) : RunsTo [] s s := fun _ => rfl

theorem runsTo_cons {e : PortEvent} {es : List PortEvent} {s u t : State}
    (h : ∀ rest, step (s.setScript (e :: rest)) = .next (u.setScript rest)) (hr : RunsTo es u t) :
    RunsTo (e :: es) s t := by
  intro rest
  rw [List.length_cons, run_succ, List.cons_append, h (es ++ rest)]
  exact hr rest

theorem runsTo_append {es es' : List PortEvent} {s u t : State} (h : RunsTo es s u) (h' : RunsTo es' u t) :
    RunsTo (es ++ es') s t := by
  intro rest
  have key : ∀ (n m : Nat) (a b : State), run n a = .next b → run (n + m) a = run m b := by
    intro n
    induction n with
    | zero => intro m a b hab; cases hab; rw [Nat.zero_add]
    | succ n ih =>
      intro m a b hab
      rw [Nat.succ_add, run_succ]
      rw [run_succ] at hab
      split at hab
      · exact ih m _ b hab
      · cases hab
      · cases hab
  rw [List.length_append, List.append_assoc, key _ _ _ _ (h (es' ++ rest))]
  exact h' rest

theorem RunsTo.runScript {es : List PortEvent} {s t : State} (h : RunsTo es s t) :
    runScript es s = .next (t.setScript s.script) := h s.script

/-- A host write of a word offset of the window. -/
theorem runsTo_wr (s : State) (slot : Nat) (v : Word) (h : slot < 32) :
    RunsTo [wr s.cfg (4 * slot) v] s (s.writeReg (Reg.ofSlot slot) v) :=
  runsTo_cons (fun rest => by
    rw [step_host rfl]
    simp only [hostStep, State.setScript_cfg, State.setScript_setScript, target_slot _ _ h, State.writeReg_setScript])
    (runsTo_nil _)

/-- A host read of a word offset of the window. -/
theorem runsTo_rd (s : State) (slot : Nat) (h : slot < 32) :
    RunsTo [rd s.cfg (4 * slot)] s (s.setRdata (s.readReg (Reg.ofSlot slot))) :=
  runsTo_cons (fun rest => by
    rw [step_host rfl]
    simp only [hostStep, State.setScript_cfg, State.setScript_setScript, target_slot _ _ h, State.readReg_setScript]
    rfl)
    (runsTo_nil _)

/-- The engine's turn, with a command pending whose family rule raises no error. -/
theorem runsTo_engine {s u : State} {l : Latch} {i : Instr} (hl : s.latch = some l) (hd : decode l.word = .ok i)
    (hb : commandBody i s l = .ok u) : RunsTo [.engine] s u.finish :=
  runsTo_cons (fun rest => by
    rw [step_engine rfl, State.setScript_setScript, engineStep_pending (s := s.setScript rest) hl hd, exec_eq_complete,
      complete_ok (s := s.setScript rest) (t := u.setScript rest) hl (by rw [commandBody_setScript, hb]; rfl)]
    rfl)
    (runsTo_nil _)

/-- Polls of STATUS leave everything but the value read. -/
theorem runsTo_polls (s : State) (polls : Nat) :
    ∃ t, RunsTo (List.replicate polls (rd s.cfg 0x0C)) s t ∧ t = { s with rdata := t.rdata } := by
  induction polls generalizing s with
  | zero => exact ⟨s, runsTo_nil s, rfl⟩
  | succ n ih =>
    obtain ⟨t, ht, he⟩ := ih (s.setRdata (s.readReg (Reg.ofSlot 3)))
    exact ⟨t, runsTo_append (runsTo_rd s 3 (by decide)) ht, he⟩

end Sys2Proof.Machine
end

