-- ==== Sys2Proof/Laws/HostRun.lean ====
section
/-! SUPPORT. What one command of a host procedure does, its WAIT and its check of ERR included: `DO c` runs to the state
that `exec` gives, with STATUS as the value read last. -/

namespace Sys2Proof.Machine

/-! ### The value read last goes along unchanged -/

theorem commandBody_rdata (i : Instr) (s : State) (r : Option Word) (l : Latch) :
    commandBody i { s with rdata := r } l = (commandBody i s l).map fun u => { u with rdata := r } := by
  cases i with
  | ringBegin n => simp only [commandBody]; split <;> rfl
  | ringAppend k =>
    have hc : State.count { s with rdata := r } = s.count := rfl
    have he : ∀ j, State.ringEntry { s with rdata := r } j = s.ringEntry j := fun _ => rfl
    simp only [commandBody, hc, he]
    split; · rfl
    split; · rfl
    split; · rfl
    split <;> rfl
  | ringCommit =>
    simp only [commandBody]
    split; · rfl
    split <;> rfl
  | ringLookup src =>
    simp only [commandBody]
    split <;> rfl
  | _ => rfl

/-- A command takes no notice of the value read last, and leaves it. -/
theorem exec_rdata {i : Instr} {s t : State} (r : Option Word) (h : exec i s = .next t) :
    exec i { s with rdata := r } = .next { t with rdata := r } := by
  obtain ⟨l, hl, ⟨u, hu, rfl⟩ | ⟨c, hc, rfl⟩⟩ := exec_next h <;> rw [exec_eq_complete]
  · rw [complete_ok (s := { s with rdata := r }) hl (by rw [commandBody_rdata, hu]; rfl)]
    rfl
  · rw [complete_error (s := { s with rdata := r }) hl (by rw [commandBody_rdata, hc]; rfl)]
    simp only [State.recordError_eq]
    rfl

/-- A command takes no notice of the rest of the schedule, and leaves it. -/
theorem exec_setScript {i : Instr} {s t : State} (es : List PortEvent) (h : exec i s = .next t) :
    exec i (s.setScript es) = .next (t.setScript es) := by
  obtain ⟨l, hl, ⟨u, hu, rfl⟩ | ⟨c, hc, rfl⟩⟩ := exec_next h <;> rw [exec_eq_complete]
  · rw [complete_ok (s := s.setScript es) hl (by rw [commandBody_setScript, hu]; rfl)]
    rfl
  · rw [complete_error (s := s.setScript es) hl (by rw [commandBody_setScript, hc]; rfl), State.recordError_setScript]
    rfl

/-- A command leaves the instance. -/
theorem exec_cfg {i : Instr} {s t : State} (h : exec i s = .next t) : t.cfg = s.cfg := by
  obtain ⟨l, hl, ⟨u, hu, rfl⟩ | ⟨c, hc, rfl⟩⟩ := exec_next h
  · cases i <;> simp only [commandBody] at hu <;> (repeat' split at hu) <;> cases hu <;> rfl
  · simp only [State.recordError_eq]; rfl

/-- A command leaves the schedule. -/
theorem exec_script {i : Instr} {s t : State} (h : exec i s = .next t) : t.script = s.script := by
  have h' := (exec_setScript s.script h).symm.trans h
  injection h' with h'
  rw [← h']
  rfl

/-! ### STATUS as the host sees it -/

theorem State.statusWord_err (s : State) : s.statusWord.getLsbD 2 = s.err := by
  unfold State.statusWord
  simp only [BitVec.getLsbD_append]
  simp

theorem State.statusWord_errcode (s : State) : s.statusWord.extractLsb' 4 4 = s.errcode := by
  unfold State.statusWord
  apply BitVec.eq_of_getLsbD_eq
  intro j hj
  simp only [BitVec.getLsbD_extractLsb', BitVec.getLsbD_append]
  interval_cases j <;> simp

/-- The check of ERR right after a read of STATUS: it passes with no error recorded, and else shows its code. -/
theorem checkErr_status (s : State) :
    checkErr (s.setRdata s.statusWord) = match s.error with
      | none => .finished (s.setRdata s.statusWord)
      | some c => .failed c.code (s.setRdata s.statusWord) := by
  have h : checkErr (s.setRdata s.statusWord) =
      if s.err then .failed s.errcode (s.setRdata s.statusWord) else .finished (s.setRdata s.statusWord) := by
    rw [← State.statusWord_err, ← State.statusWord_errcode]
    rfl
  rw [h]
  unfold State.err State.errcode
  cases s.error <;> rfl

/-! ### Host procedures -/

@[simp] theorem HostEnd.finished_andThen (t : State) (f : State → HostEnd) : (HostEnd.finished t).andThen f = f t := rfl

@[simp] theorem HostEnd.failed_andThen (c : BitVec 4) (t : State) (f : State → HostEnd) :
    (HostEnd.failed c t).andThen f = .failed c t := rfl

@[simp] theorem HostEnd.rejected_andThen (why : BuildRefusal) (t : State) (f : State → HostEnd) :
    (HostEnd.rejected why t).andThen f = .rejected why t := rfl

@[simp] theorem HostEnd.stuck_andThen (f : State → HostEnd) : HostEnd.stuck.andThen f = .stuck := rfl

theorem runHost_of_runsTo {es : List PortEvent} {s t : State} (h : RunsTo es s t) (hs : t.script = s.script) :
    runHost es s = .finished t := by
  have ht : t.setScript s.script = t := by rw [← hs]; rfl
  simp only [runHost, h.runScript, ht]

/-- A schedule that ends in a read of STATUS, and the check of ERR. -/
theorem runChecked_of_runsTo {es : List PortEvent} {s u : State} (h : RunsTo es s (u.setRdata u.statusWord))
    (hs : u.script = s.script) :
    runChecked es s = match u.error with
      | none => .finished (u.setRdata u.statusWord)
      | some c => .failed c.code (u.setRdata u.statusWord) := by
  rw [runChecked, runHost_of_runsTo h hs, HostEnd.finished_andThen, checkErr_status]

/-- The engine's turn, with a command pending. -/
theorem runsTo_exec {s u : State} {l : Latch} {i : Instr} (hl : s.latch = some l) (hd : decode l.word = .ok i)
    (he : exec i s = .next u) : RunsTo [.engine] s u :=
  runsTo_cons (fun rest => by
    rw [step_engine rfl, State.setScript_setScript, engineStep_pending (s := s.setScript rest) hl hd,
      exec_setScript rest he])
    (runsTo_nil _)

/-- Everything `DO c` does from an idle state: the command is accepted and completes as `exec` says, and the last read
returns STATUS. -/
theorem runsTo_doCmd {s u : State} {i : Instr} (polls : Nat) (hl : s.latch = none) (hd : decode (encode i) = .ok i)
    (he : exec i (s.setLatch (s.latchOf (encode i))) = .next u) :
    RunsTo (doCmd s.cfg polls i) s (u.setRdata u.statusWord) := by
  have accept : RunsTo [wr s.cfg 0x10 (encode i)] s (s.setLatch (s.latchOf (encode i))) := by
    have h := runsTo_wr s 4 (encode i) (by decide)
    rwa [show s.writeReg (Reg.ofSlot 4) (encode i) = s.setLatch (s.latchOf (encode i)) by
      simp [Reg.ofSlot, State.writeReg, State.acceptCommand, State.busy, hl, hd]] at h
  obtain ⟨p, polled, hp⟩ := runsTo_polls (s.setLatch (s.latchOf (encode i))) polls
  have completes : RunsTo [.engine] p { u with rdata := p.rdata } :=
    runsTo_exec (l := s.latchOf (encode i)) (by rw [hp]; rfl) hd (by rw [hp]; exact exec_rdata p.rdata he)
  have seen : RunsTo [rd s.cfg 0x0C] { u with rdata := p.rdata } (u.setRdata u.statusWord) := by
    rw [← show u.cfg = s.cfg from (exec_cfg he).trans rfl]
    exact runsTo_rd { u with rdata := p.rdata } 3 (by decide)
  exact runsTo_append accept (runsTo_append polled (runsTo_append completes seen))

/-- `DO c` from an idle state, and the check of ERR after it. -/
theorem runChecked_doCmd {s u : State} {i : Instr} (polls : Nat) (hl : s.latch = none) (hd : decode (encode i) = .ok i)
    (he : exec i (s.setLatch (s.latchOf (encode i))) = .next u) :
    runChecked (doCmd s.cfg polls i) s = match u.error with
      | none => .finished (u.setRdata u.statusWord)
      | some c => .failed c.code (u.setRdata u.statusWord) :=
  runChecked_of_runsTo (runsTo_doCmd polls hl hd he) ((exec_script he).trans rfl)

end Sys2Proof.Machine
end

