-- ==== Sys2Proof/Laws/Md5.lean ====
section
/-! SUPPORT. What storing a byte in the MD5 engine can do (42_md5.md R86): `PutByte`, lists of bytes, `Finish`. -/

namespace Sys2Proof.Machine

/-- Everything `PutByte` can do: the byte goes to index LEVEL; the 64th byte compresses the buffer, any other only
raises LEVEL. -/
theorem md5PutByte_cases (epoch : Nat) (m : Md5Ctx) (b : Byte) :
    (m.level.toNat = 63 ∧ md5PutByte epoch m b =
      { m with
        chain := md5Compress m.chain (bufferBlock epoch (Memory.write m.buf 63 b))
        buf := Memory.write m.buf 63 b
        level := 0 }) ∨
    (m.level.toNat < 63 ∧ md5PutByte epoch m b =
      { m with buf := Memory.write m.buf m.level.toNat b, level := BitVec.ofNat 6 (m.level.toNat + 1) }) := by
  have hl := m.level.isLt
  unfold md5PutByte
  by_cases h : m.level.toNat = 63
  · exact .inl ⟨h, by simp [h]⟩
  · exact .inr ⟨by omega, by simp [h]⟩

theorem md5PutByte_len (epoch : Nat) (m : Md5Ctx) (b : Byte) : (md5PutByte epoch m b).len = m.len := by
  rcases md5PutByte_cases epoch m b with ⟨_, h⟩ | ⟨_, h⟩ <;> rw [h]

theorem md5PutByte_level (epoch : Nat) (m : Md5Ctx) (b : Byte) :
    (md5PutByte epoch m b).level.toNat = (m.level.toNat + 1) % 64 := by
  rcases md5PutByte_cases epoch m b with ⟨hl, h⟩ | ⟨hl, h⟩ <;> rw [h]
  · rw [hl]; rfl
  · exact BitVec.toNat_ofNat ..

/-- The byte counter does not take part in `PutByte`. -/
theorem md5PutByte_setLen (epoch : Nat) (m : Md5Ctx) (x : Dword) (b : Byte) :
    md5PutByte epoch { m with len := x } b = { md5PutByte epoch m b with len := x } := by
  unfold md5PutByte
  simp only
  split <;> rfl

theorem md5PutBytes_append (epoch : Nat) (m : Md5Ctx) (xs ys : List Byte) :
    md5PutBytes epoch m (xs ++ ys) = md5PutBytes epoch (md5PutBytes epoch m xs) ys := by
  simp [md5PutBytes]

theorem md5AbsorbBytes_append (epoch : Nat) (m : Md5Ctx) (xs ys : List Byte) :
    md5AbsorbBytes epoch m (xs ++ ys) = md5AbsorbBytes epoch (md5AbsorbBytes epoch m xs) ys := by
  simp [md5AbsorbBytes]

/-- The zero padding: as many zero bytes as take LEVEL to 56 modulo 64, with fuel enough. -/
theorem md5ZeroPad_eq (epoch : Nat) (fuel : Nat) (m : Md5Ctx) (h : (120 - m.level.toNat) % 64 < fuel) :
    md5ZeroPad epoch fuel m = md5PutBytes epoch m (List.replicate ((120 - m.level.toNat) % 64) 0) := by
  induction fuel generalizing m with
  | zero => omega
  | succ fuel ih =>
    have hl := m.level.isLt
    unfold md5ZeroPad
    by_cases hm : m.level = 56
    · simp [hm, md5PutBytes]
    · have hne : m.level.toNat ≠ 56 := fun e => hm (BitVec.eq_of_toNat_eq (by simpa using e))
      have hp := md5PutByte_level epoch m 0
      have hn : (120 - (md5PutByte epoch m 0).level.toNat) % 64 + 1 = (120 - m.level.toNat) % 64 := by rw [hp]; omega
      rw [if_neg hm, ih _ (by omega), ← hn, List.replicate_succ]
      rfl

/-- `Finish` as one list of bytes stored: 0x80, the zero padding, the bit length. -/
theorem md5Finish_eq (epoch : Nat) (m : Md5Ctx) :
    md5Finish epoch m =
      md5PutBytes epoch m ([0x80] ++ List.replicate ((119 - m.level.toNat) % 64) 0 ++ leBytes64 (m.len * 8)) := by
  have hl := m.level.isLt
  unfold md5Finish
  rw [md5ZeroPad_eq epoch 64 _ (Nat.mod_lt _ (by decide)), md5PutBytes_append, md5PutBytes_append, md5PutByte_level,
    show (120 - (m.level.toNat + 1) % 64) % 64 = (119 - m.level.toNat) % 64 by omega]
  rfl

/-! ### Words and their lanes -/

@[simp] theorem leBytes64_length (v : Dword) : (leBytes64 v).length = 8 := rfl

theorem le32_lanes (w : Word) : le32 (lane w 0) (lane w 1) (lane w 2) (lane w 3) = w := by
  unfold lane le32
  apply BitVec.eq_of_getLsbD_eq
  intro i hi
  simp only [BitVec.getLsbD_append, BitVec.getLsbD_extractLsb']
  interval_cases i <;> simp

theorem leBytes_le32 (b0 b1 b2 b3 : Byte) : leBytes (le32 b0 b1 b2 b3) = [b0, b1, b2, b3] := by
  unfold leBytes lane le32
  simp only [List.cons.injEq, and_true]
  refine ⟨?_, ?_, ?_, ?_⟩ <;>
  · apply BitVec.eq_of_getLsbD_eq
    intro i hi
    simp only [BitVec.getLsbD_extractLsb', BitVec.getLsbD_append]
    interval_cases i <;> rfl

end Sys2Proof.Machine
end

