-- ==== Sys2Proof/Laws/PerInstr.lean ====
section
/-! SUPPORT. Facts about every instruction as syntax, one lemma per constructor. -/

/-- The word of a well-formed instruction lies in a row of the opcode table (30_encoding.md R66). -/
def Sys2Proof.Laws.EncodeInRow.Statement (i : Sys2Proof.Instr) : Prop :=
  i.wellFormed = true → ∃ r ∈ Sys2Proof.opcodeTable, Sys2Proof.encode i &&& r.mask = r.bits

namespace Sys2Proof.Laws.EncodeInRow

/-- An IMM16 in place leaves the low half of a row's word alone. -/
theorem imm_hits (b : Word) (k : Half) : (b ||| placeImm16 k) &&& 0x0000FFFF = b &&& 0x0000FFFF := by
  apply BitVec.eq_of_getLsbD_eq
  intro i hi
  have h := congrArg (·.getLsbD i) (placeImm16_and_low k)
  simp only [BitVec.getLsbD_and] at h
  simp only [BitVec.getLsbD_and, BitVec.getLsbD_or, Bool.and_or_distrib_right, h]
  simp

/-- A byte count in place changes NM1 alone. -/
theorem count_hits (b : Word) (n : Nat) (hb : b &&& 0x00000300 = 0) : (b ||| placeByteCount n) &&& 0xFFFFFCFF = b := by
  unfold placeByteCount
  generalize BitVec.ofNat 2 (n - 1) = x
  apply BitVec.eq_of_getLsbD_eq
  intro i hi
  have h := congrArg (·.getLsbD i) hb
  simp only [BitVec.getLsbD_and] at h
  simp only [BitVec.getLsbD_and, BitVec.getLsbD_or, BitVec.getLsbD_shiftLeft, BitVec.getLsbD_setWidth]
  interval_cases i <;> simp_all

theorem nop : Statement .nop := fun _ => ⟨⟨0xFFFFFFFF, 0x00000000, fun _ => .nop⟩, by simp [opcodeTable], by decide⟩

theorem crcInit : Statement .crcInit :=
  fun _ => ⟨⟨0xFFFFFFFF, 0x00000001, fun _ => .crcInit⟩, by simp [opcodeTable], by decide⟩

theorem crcUpdate (n : Nat) : Statement (.crcUpdate n) :=
  fun _ => ⟨⟨0xFFFFFCFF, 0x00000002, fun v => .crcUpdate (byteCount v)⟩, by simp [opcodeTable],
    count_hits 0x00000002 n (by decide)⟩

theorem crcFinal : Statement .crcFinal :=
  fun _ => ⟨⟨0xFFFFFFFF, 0x00000003, fun _ => .crcFinal⟩, by simp [opcodeTable], by decide⟩

theorem md5Init : Statement .md5Init :=
  fun _ => ⟨⟨0xFFFFFFFF, 0x00000010, fun _ => .md5Init⟩, by simp [opcodeTable], by decide⟩

theorem md5Update (n : Nat) : Statement (.md5Update n) :=
  fun _ => ⟨⟨0xFFFFFCFF, 0x00000011, fun v => .md5Update (byteCount v)⟩, by simp [opcodeTable],
    count_hits 0x00000011 n (by decide)⟩

theorem md5Final : Statement .md5Final :=
  fun _ => ⟨⟨0xFFFFFFFF, 0x00000012, fun _ => .md5Final⟩, by simp [opcodeTable], by decide⟩

theorem ringBegin (nodes : Half) : Statement (.ringBegin nodes) :=
  fun _ => ⟨⟨0x0000FFFF, 0x00000020, fun v => .ringBegin (fieldImm16 v)⟩, by simp [opcodeTable],
    imm_hits 0x00000020 nodes⟩

theorem ringAppend (node : Half) : Statement (.ringAppend node) :=
  fun _ => ⟨⟨0x0000FFFF, 0x00000021, fun v => .ringAppend (fieldImm16 v)⟩, by simp [opcodeTable],
    imm_hits 0x00000021 node⟩

theorem ringCommit : Statement .ringCommit :=
  fun _ => ⟨⟨0xFFFFFFFF, 0x00000022, fun _ => .ringCommit⟩, by simp [opcodeTable], by decide⟩

theorem ringLookup (src : QuerySource) : Statement (.ringLookup src) :=
  fun _ => ⟨⟨0xFFFFEFFF, 0x00000023, fun v => .ringLookup (querySource v)⟩, by simp [opcodeTable],
    by cases src <;> decide⟩

end Sys2Proof.Laws.EncodeInRow
end

