-- ==== Sys2Proof/Laws/Ring.lean ====
section
/-! SUPPORT. What the selection of a lookup can give (43_ring.md R98). -/

namespace Sys2Proof.Machine

/-- Everything `Select(q)` can give: the lowest valid index that hits, or index 0 with WRAP when none does. -/
theorem State.select_cases (s : State) (q : Word) :
    (∃ i, i < s.count ∧ q ≤ (s.ringEntry i).point ∧ (∀ j, j < i → (s.ringEntry j).point < q) ∧
      s.select q = (i, false)) ∨
    ((∀ i, i < s.count → (s.ringEntry i).point < q) ∧ s.select q = (0, true)) := by
  unfold State.select
  cases h : (List.range s.count).find? (s.hit q) with
  | none => exact .inr ⟨fun i hi => by simpa [State.hit] using List.find?_eq_none.mp h i (by simpa using hi), rfl⟩
  | some i =>
    obtain ⟨hit, mem, before⟩ := List.find?_range_eq_some.mp h
    exact .inl ⟨i, by simpa using mem, by simpa [State.hit] using hit,
      fun j hj => by simpa [State.hit] using before j hj, rfl⟩

end Sys2Proof.Machine
end

