-- ==== Sys2Proof/Tests/Slice0.lean ====
section
/-! SUPPORT. Tests of single steps against the spec's vectors (95_test_vectors.md), and a named witness for the
hypotheses of every statement of Certificates/Slice0/Obligations.lean. -/

open Sys2Proof Sys2Proof.Machine Sys2Proof.Spec

namespace Sys2Proof.Tests

/-! ### States to test on -/

/-- The state after a step, if it answers one. -/
def after : Host.Outcome State Fault Refusal → Option State
  | .next t => some t
  | .fault _ => none
  | .refused _ => none

/-- Reset with RING_DEPTH = 4, as the error vectors take it (95_test_vectors.md section 2.5), and an empty schedule. -/
def small : State := State.resetWith { ringDepth := 4, khgBase := 0x1000 }

/-- `s` with `i` pending on the operand `opnd`. -/
def pending (s : State) (i : Instr) (opnd : Word) : State :=
  s.setLatch { word := encode i, opnd := opnd, res := 0, slice := false }

/-- The latch of `pending`. -/
def held (i : Instr) (opnd : Word) : Latch := { word := encode i, opnd := opnd, res := 0, slice := false }

/-- The example ring E (95_test_vectors.md section 2.4), READY, in a table it fills. -/
def ringE : State :=
  { small with
    rstate := .ready
    ringCount := 4
    ringNodes := 3
    ring := [ (0, ⟨0x10000000, 0⟩), (1, ⟨0x20000000, 1⟩), (2, ⟨0x20000000, 2⟩), (3, ⟨0x80000000, 0⟩) ] }

/-- A ring being built: `count` points, the last of value 5. -/
def building (count : Word) : State :=
  { small with rstate := .building, ringCount := count, ringNodes := 2, ring := [ (0, ⟨5, 0⟩), (1, ⟨5, 1⟩) ] }

/-- A READY ring of one node and one point (V-R17). -/
def oneNode : State := { small with rstate := .ready, ringCount := 1, ringNodes := 1, ring := [ (0, ⟨0x55555555, 0⟩) ] }

/-- The MD5 context after "abc" (V-M3). -/
def abc : State := { small with md5 := { small.md5 with buf := [ (0, 0x61), (1, 0x62), (2, 0x63) ], level := 3, len := 3 } }

/-- The MD5 context after `n` bytes of value 'A', n below 64. -/
def manyA (n : Nat) : Md5Ctx :=
  { small.md5 with
    buf := (List.range n).map fun k => (k, 0x41)
    level := BitVec.ofNat 6 n
    len := BitVec.ofNat 64 n }

/-- `small` with one event scheduled. -/
def scheduled (s : State) (e : PortEvent) : State := s.setScript [e]

/-! ### Well-formedness: an ill-formed term for each check -/

theorem test_wellFormed_refuses_zero_crc_bytes : (Instr.crcUpdate 0).wellFormed = false := by decide
theorem test_wellFormed_refuses_five_crc_bytes : (Instr.crcUpdate 5).wellFormed = false := by decide
theorem test_wellFormed_refuses_zero_md5_bytes : (Instr.md5Update 0).wellFormed = false := by decide
theorem test_wellFormed_refuses_five_md5_bytes : (Instr.md5Update 5).wellFormed = false := by decide
theorem test_assemblable_refuses_no_nodes : (Instr.ringBegin 0).assemblable = false := by decide
theorem test_wellFormed_admits_no_nodes : (Instr.ringBegin 0).wellFormed = true := by decide

/-! ### Decoding: words written out from 30_encoding.md R59 to R62 and R66 -/

theorem test_decode_nop : decode 0b0000000000000000_000_0_00_00_00000000#32 = .ok .nop := by decide
theorem test_decode_crcInit : decode 0b0000000000000000_000_0_00_00_00000001#32 = .ok .crcInit := by decide
theorem test_decode_crcUpdate : decode 0b0000000000000000_000_0_00_10_00000010#32 = .ok (.crcUpdate 3) := by decide
theorem test_decode_crcFinal : decode 0b0000000000000000_000_0_00_00_00000011#32 = .ok .crcFinal := by decide
theorem test_decode_md5Init : decode 0b0000000000000000_000_0_00_00_00010000#32 = .ok .md5Init := by decide
theorem test_decode_md5Update : decode 0b0000000000000000_000_0_00_01_00010001#32 = .ok (.md5Update 2) := by decide
theorem test_decode_md5Final : decode 0b0000000000000000_000_0_00_00_00010010#32 = .ok .md5Final := by decide
theorem test_decode_ringBegin : decode 0b0000000000000011_000_0_00_00_00100000#32 = .ok (.ringBegin 3) := by decide
theorem test_decode_ringAppend : decode 0b1000000000000001_000_0_00_00_00100001#32 = .ok (.ringAppend 0x8001) := by decide
theorem test_decode_ringCommit : decode 0b0000000000000000_000_0_00_00_00100010#32 = .ok .ringCommit := by decide
theorem test_decode_ringLookup_data : decode 0b0000000000000000_000_0_00_00_00100011#32 = .ok (.ringLookup .data) := by
  decide
theorem test_decode_ringLookup_result :
    decode 0b0000000000000000_000_1_00_00_00100011#32 = .ok (.ringLookup .result) := by decide

/-- V-E12: unassigned OP values. -/
theorem test_decode_unassigned :
    decode 0x00000004#32 = .error .unassignedOp ∧
    decode 0x00000013#32 = .error .unassignedOp ∧
    decode 0x00000024#32 = .error .unassignedOp ∧
    decode 0x000000FF#32 = .error .unassignedOp := by
  refine ⟨?_, ?_, ?_, ?_⟩ <;> decide

/-- V-E13: a bit set outside the used fields. -/
theorem test_decode_unused :
    decode 0x00000100#32 = .error .unusedBitSet ∧
    decode 0x00000402#32 = .error .unusedBitSet ∧
    decode 0x00001002#32 = .error .unusedBitSet ∧
    decode 0x80000003#32 = .error .unusedBitSet ∧
    decode 0x00001022#32 = .error .unusedBitSet ∧
    decode 0x00002023#32 = .error .unusedBitSet ∧
    decode 0x00010023#32 = .error .unusedBitSet ∧
    decode 0x00008020#32 = .error .unusedBitSet ∧
    decode 0x00000121#32 = .error .unusedBitSet := by
  refine ⟨?_, ?_, ?_, ?_, ?_, ?_, ?_, ?_, ?_⟩ <;> decide

theorem test_decodeTableWord : decodeTableWord 32 0x00020020 = some (.ringBegin 2) := by decide
theorem test_decodeTableWord_short : decodeTableWord 8 0x22 = some .ringCommit := by decide

/-! ### One step of each command -/

/-- V-N1: STATUS after the engine step of a NOP. -/
theorem test_nop : (after (exec .nop (pending small .nop 0))).map (·.statusWord) = some 0x00000002 := by decide
/-- V-C17. -/
theorem test_crcInit :
    (after (exec .crcInit (pending (small.setCrc 0x174841BC) .crcInit 0))).map (·.crc) = some 0xFFFFFFFF := by decide
/-- V-C12. -/
theorem test_crcUpdate_1234 :
    (after (exec (.crcUpdate 4) (pending small (.crcUpdate 4) 0x34333231))).map (·.crc) = some 0x641C1F5C := by
  decide +kernel
/-- V-C15: lanes above the count are ignored. -/
theorem test_crcUpdate_ignores_lanes :
    (after (exec (.crcUpdate 1) (pending small (.crcUpdate 1) 0xFFFFFF61))).map (·.crc) = some 0x174841BC := by
  decide +kernel
/-- V-C4, slice 0. -/
theorem test_crcFinal :
    (after (exec .crcFinal (pending (small.setCrc 0x340BC6D9) .crcFinal 0))).map (fun t => (t.result, t.crc))
      = some (0xCBF43926, 0xFFFFFFFF) := by decide +kernel
/-- V-C4, slice 1: the latched slice counts, not CTRL. -/
theorem test_crcFinal_slice :
    (after (exec .crcFinal ((small.setCrc 0x340BC6D9).setLatch { word := 3, opnd := 0, res := 0, slice := true }))).map
      (·.result) = some 0x00004BF4 := by decide +kernel
/-- V-M19: MD5BUF goes 3 to 0. -/
theorem test_md5Init : (after (exec .md5Init (pending abc .md5Init 0))).map (·.statusWord) = some 0x00000002 := by
  decide
/-- P2 step 4, from a level of 3: MD5BUF = 5. -/
theorem test_md5Update :
    (after (exec (.md5Update 2) (pending abc (.md5Update 2) 0x00006362))).map (fun t => (t.statusWord, t.md5.len))
      = some (0x00050002, 5) := by decide +kernel
/-- V-M10: the 64th byte compresses the block; MD5("A" × 64) continues at level 0. -/
theorem test_md5Update_fills_the_block :
    (after (exec (.md5Update 1) (pending { small with md5 := manyA 63 } (.md5Update 1) 0x41))).map
      (fun t => (t.md5.level, (md5Finish t.epoch t.md5).chain.a)) = some (0, 0x75A989D2) := by decide +kernel
/-- V-M3: RESULT and DIGEST0 to DIGEST3 of MD5("abc"). -/
theorem test_md5Final :
    (after (exec .md5Final (pending abc .md5Final 0))).map (fun t => (t.result, t.digest))
      = some (0x98500190, ⟨0x98500190, 0xB04FD23C, 0x7D3F96D6, 0x727FE128⟩) := by decide +kernel
/-- V-M8: two padding blocks. -/
theorem test_md5Final_two_blocks :
    (after (exec .md5Final (pending { small with md5 := manyA 56 } .md5Final 0))).map (·.digest)
      = some ⟨0x02E2F3A2, 0x47BD3149, 0x2A005505, 0x10C0CCA5⟩ := by decide +kernel
/-- V-R12. -/
theorem test_ringBegin :
    (after (exec (.ringBegin 2) (pending ringE (.ringBegin 2) 0))).map
      (fun t => (t.statusWord, t.ringCount, t.ringNodes)) = some (0x00000102, 0, 2) := by decide
/-- V-E6. -/
theorem test_ringBegin_zero :
    (after (exec (.ringBegin 0) (pending small (.ringBegin 0) 0))).map (fun t => (t.statusWord, t.ringNodes))
      = some (0x00000086, 0) := by decide
/-- V-R14: an equal point is accepted. -/
theorem test_ringAppend_equal :
    (after (exec (.ringAppend 1) (pending (building 2) (.ringAppend 1) 5))).map
      (fun t => (t.ringCount, t.ringEntry 2, t.ringEntry 1)) = some (3, ⟨5, 1⟩, ⟨5, 1⟩) := by decide
/-- V-E8: a smaller point is refused. -/
theorem test_ringAppend_order :
    (after (exec (.ringAppend 1) (pending (building 1) (.ringAppend 1) 4))).map (fun t => (t.statusWord, t.ringCount))
      = some (0x00000176, 1) := by decide
/-- V-R15. -/
theorem test_ringCommit :
    (after (exec .ringCommit (pending (building 2) .ringCommit 0))).map (·.statusWord) = some 0x00000202 := by decide
/-- V-E4. -/
theorem test_ringCommit_empty :
    (after (exec .ringCommit (pending (building 0) .ringCommit 0))).map (·.statusWord) = some 0x00000136 := by decide
/-- V-R6: a tie gives the first inserted. -/
theorem test_ringLookup_tie :
    (after (exec (.ringLookup .data) (pending ringE (.ringLookup .data) 0x20000000))).map
      (fun t => (t.readReg .lkIndex, t.lk.point, t.lk.node)) = some (0x00000001, 0x20000000, 1) := by decide
/-- V-R10: the wrap. -/
theorem test_ringLookup_wrap :
    (after (exec (.ringLookup .data) (pending ringE (.ringLookup .data) 0x80000001))).map
      (fun t => (t.readReg .lkIndex, t.lk.point, t.lk.node)) = some (0x80000000, 0x10000000, 0) := by decide

/-! ### Host steps, reset and the placing of a command -/

/-- V-A1, at a base other than 0. -/
theorem test_read_id : (after (step (scheduled small (.host (.read 0x1000 4))))).map (·.rdata) = some (some 0x4B484701) := by
  decide
/-- V-A5. -/
theorem test_write_ctrl :
    (after (step (scheduled small (.host (.write 0x1008 4 0xFFFFFFFF))))).map (·.ctrlWord) = some 0x00000003 := by decide
/-- V-N3: W1C of DONE alone. -/
theorem test_write_status :
    (after (step (scheduled { small with done := true, error := some .emptyRing } (.host (.write 0x100C 4 2))))).map
      (·.statusWord) = some 0x00000034 := by decide
/-- V-E14: a CMD write while BUSY. -/
theorem test_write_cmd_busy :
    (after (step (scheduled (pending small .nop 0) (.host (.write 0x1010 4 1))))).map (·.statusWord)
      = some 0x00000025 := by decide
/-- V-E12: an illegal word completes at once. -/
theorem test_write_cmd_illegal :
    (after (step (scheduled small (.host (.write 0x1010 4 0xFF))))).map (·.statusWord) = some 0x00000016 := by decide
/-- A byte access has no step (20_memory.md R44). -/
theorem test_byte_access_refused : step (scheduled small (.host (.read 0x1000 1))) = .refused .accessWidth := rfl
/-- A misaligned access has no step (R44). -/
theorem test_misaligned_refused : step (scheduled small (.host (.read 0x1002 4))) = .refused .misalignedAccess := rfl
/-- An access past the window has no step (R43). -/
theorem test_outside_refused : step (scheduled small (.host (.read 0x1080 4))) = .refused .outsideWindow := rfl
/-- A reset abandons the pending command (70_reset_and_hazards.md R118). -/
theorem test_reset_abandons :
    (after (step (scheduled (pending ringE .ringCommit 0) .reset))).map (fun t => (t.statusWord, t.latch.isSome))
      = some (0x00000000, false) := by decide
/-- V-I1: `irq` after a NOP with IRQEN = 1. -/
theorem test_irq :
    (after (exec .nop (pending { small with ctrl := ⟨false, true⟩ } .nop 0))).map (·.irq) = some true := by decide
/-- The word of CRC_UPDATE 4 placed as the first command after reset, on DATA_IN = 0 (V-C13). -/
theorem test_withFetchWord :
    (after (step (State.reset.withFetchWord 32 0x00000302))).map (·.crc) = some 0xDEBB20E3 := by decide +kernel
theorem test_reset_memories_wf : Memory.wf State.reset.ring = true ∧ Memory.wf State.reset.md5.buf = true := by decide
/-- The host's list of points of "127.0.0.1:11211-0" (V-M20), by its first word. -/
theorem test_nodePoints :
    (digestPoints 0 [0x31, 0x32, 0x37, 0x2E, 0x30, 0x2E, 0x30, 0x2E, 0x31, 0x3A, 0x31, 0x31, 0x32, 0x31, 0x31] 0).head?
      = some ⟨0x9A56FAE2, 0⟩ := by decide +kernel
theorem test_dec : dec 39 = [0x33, 0x39] := by decide
/-- V-E1, as LOOKUP reports it: the lookup of an EMPTY ring fails with EMPTY_RING. -/
theorem test_runLookup_empty :
    (match runLookup 1 0 small with | .failed c t => some (c, t.statusWord) | _ => none) = some (3, 0x00000036) := by
  decide +kernel

/-! ### Witnesses: states and operands that meet the hypotheses of each statement, clause by clause -/

/-- The bound form of a quantifier over indices, for the fields of the invariant. -/
theorem ringE_inv : ringE.Inv where
  cfgLegal := by decide
  countLe := by decide
  ringWf := by decide
  ringInTable := by decide
  ringWritten := by intro k hk; have hk : k < 4 := hk; interval_cases k <;> decide
  ringSorted := by intro k hk; have hk : k + 1 < 4 := hk; have : k < 3 := by omega
                   interval_cases k <;> decide
  ringNodeValid := by intro k hk; have hk : k < 4 := hk; interval_cases k <;> decide
  emptyHasNone := by decide
  begunHasNode := by decide
  readyHasEntry := by decide
  lkInTable := by decide
  bufWf := by decide
  bufInBlock := by decide
  bufWritten := by intro k hk; exact absurd hk (Nat.not_lt_zero k)
  latchLegal := by intro l hl; cases hl

theorem oneNode_inv : oneNode.Inv where
  cfgLegal := by decide
  countLe := by decide
  ringWf := by decide
  ringInTable := by decide
  ringWritten := by intro k hk; have hk : k < 1 := hk; interval_cases k; decide
  ringSorted := by intro k hk; have hk : k + 1 < 1 := hk; omega
  ringNodeValid := by intro k hk; have hk : k < 1 := hk; interval_cases k; decide
  emptyHasNone := by decide
  begunHasNode := by decide
  readyHasEntry := by decide
  lkInTable := by decide
  bufWf := by decide
  bufInBlock := by decide
  bufWritten := by intro k hk; exact absurd hk (Nat.not_lt_zero k)
  latchLegal := by intro l hl; cases hl

/-- The invariant with a command pending, bytes in the block buffer and a schedule. -/
theorem busy_inv : ((pending { ringE with md5 := abc.md5 } (.ringLookup .data) 0x20000000).setScript [.engine]).Inv where
  cfgLegal := by decide
  countLe := by decide
  ringWf := by decide
  ringInTable := by decide
  ringWritten := by intro k hk; have hk : k < 4 := hk; interval_cases k <;> decide
  ringSorted := by intro k hk; have hk : k + 1 < 4 := hk; have : k < 3 := by omega
                   interval_cases k <;> decide
  ringNodeValid := by intro k hk; have hk : k < 4 := hk; interval_cases k <;> decide
  emptyHasNone := by decide
  begunHasNode := by decide
  readyHasEntry := by decide
  lkInTable := by decide
  bufWf := by decide
  bufInBlock := by decide
  bufWritten := by intro k hk; have hk : k < 3 := hk; interval_cases k <;> decide
  latchLegal := by intro l hl; cases hl; exact ⟨.ringLookup .data, by decide⟩

/-- A pending command keeps the invariant of a state. -/
theorem Inv_pending {s : State} (h : s.Inv) (i : Instr) (opnd : Word) (hd : decode (encode i) = .ok i) :
    (pending s i opnd).Inv :=
  { h with latchLegal := by intro l hl; cases hl; exact ⟨i, hd⟩ }

theorem witness_DecodeOfEncode : (Instr.crcUpdate 1).wellFormed = true ∧ (Instr.md5Update 4).wellFormed = true := by decide
theorem witness_EncodeOfDecode : decode 0x00000302 = .ok (.crcUpdate 4) ∧ decode 0xFFFF0021 = .ok (.ringAppend 0xFFFF) := by
  decide
theorem witness_DecodeFollowsTheUniqueRow :
    (∃ r ∈ opcodeTable, (0xFFFF0020 : Word) &&& r.mask = r.bits) ∧
    (∀ r ∈ opcodeTable, (0x00000004 : Word) &&& r.mask ≠ r.bits) ∧
    (∀ r ∈ opcodeTable, (0x00000402 : Word) &&& r.mask ≠ r.bits) := by
  unfold opcodeTable
  decide
theorem witness_StepRunsThePendingCommand :
    (pending small .nop 0).latch = some (held .nop 0) ∧ decode (held .nop 0).word = .ok .nop ∧
    (pending small .nop 0).script = [] ∧ ((pending small .nop 0).setScript [.engine]).script = .engine :: [] := by decide
theorem witness_PlacedWordRunsNext : Instr.ringCommit.wellFormed = true := by decide
theorem witness_RegisterAccessEffects :
    small.cfg.legal = true ∧ (0x00, 0x4B484701) ∈ windowValues small ∧ (0x7C, 0) ∈ windowValues small ∧
    (scheduled small (.host (.read (0x1000 + 0x7C) 4))).script = .host (.read (small.cfg.khgBase + 0x7C) 4) :: [] ∧
    (scheduled small (.host (.write 0x1008 4 3))).script = .host (.write (small.cfg.khgBase + 0x08) 4 3) :: [] ∧
    (scheduled small (.host (.write 0x1014 4 3))).script = .host (.write (small.cfg.khgBase + 0x14) 4 3) :: [] ∧
    (scheduled small (.host (.write 0x100C 4 6))).script = .host (.write (small.cfg.khgBase + 0x0C) 4 6) :: [] ∧
    (scheduled small (.host (.write 0x1010 4 0))).script = .host (.write (small.cfg.khgBase + 0x10) 4 0) :: [] ∧
    31 ∉ [2, 3, 4, 5] ∧
    (scheduled small (.host (.write 0x107C 4 1))).script = .host (.write (small.cfg.khgBase + 4 * 31) 4 1) :: [] := by
  decide
theorem witness_OnlyAlignedWordAccessesHaveAStep :
    (scheduled small (.host (.read 0x107C 4))).script = .host (.read 0x107C 4) :: [] ∧
    (∃ t, step (scheduled small (.host (.read 0x107C 4))) = .next t) ∧
    step (scheduled small (.host (.write 0x1080 4 0))) = .refused .outsideWindow ∧
    step (scheduled small (.host (.write 0x0FFF 4 0))) = .refused .outsideWindow ∧
    step (scheduled small (.host (.write 0x1000 2 0))) = .refused .accessWidth ∧
    step (scheduled small (.host (.write 0x107F 4 0))) = .refused .misalignedAccess :=
  ⟨rfl, ⟨_, rfl⟩, rfl, rfl, rfl, rfl⟩
theorem witness_CommandAcceptance :
    (scheduled (pending small .nop 0) (.host (.write 0x1010 4 1))).latch.isSome = true ∧
    (scheduled small (.host (.write 0x1010 4 4))).latch = none ∧ (∃ e, decode 0x00000004 = .error e) ∧
    (∃ i, decode 0x00000001 = .ok i) ∧
    (scheduled small (.host (.write 0x1010 4 1))).script = .host (.write (small.cfg.khgBase + 0x10) 4 1) :: [] :=
  ⟨rfl, rfl, ⟨.unassignedOp, by decide⟩, ⟨.crcInit, by decide⟩, rfl⟩
theorem witness_IdleStaysAsItIs :
    small.latch = none ∧ small.script = [] ∧ (scheduled small .engine).script = .engine :: [] := by decide

/-- A pending command of each kind: the hypothesis of every statement of a command's result. -/
theorem witness_NopOnlyCompletes :
    (pending small .nop 0).latch = some (held .nop 0) ∧ (0x00000100 : Word).extractLsb' 0 8 = 0x00 ∧
    (0x00000100 : Word) ≠ 0 := by decide
theorem witness_CrcInitSetsTheInitialValue : (pending small .crcInit 0).latch = some (held .crcInit 0) := rfl
theorem witness_CrcUpdateConsumesTheLanes :
    (pending small (.crcUpdate 4) 0x34333231).latch = some (held (.crcUpdate 4) 0x34333231) ∧
    (0x00000402 : Word).extractLsb' 0 8 = 0x02 ∧ (0x00000402 : Word).extractLsb' 10 22 ≠ 0 := by decide
theorem witness_CrcFinalPublishesTheSlice :
    (pending small .crcFinal 0).latch = some (held .crcFinal 0) ∧ (held .crcFinal 0).slice = false ∧
    (small.setLatch { held .crcFinal 0 with slice := true }).latch = some { held .crcFinal 0 with slice := true } := by
  decide
theorem witness_ChunksSplitTheKey :
    0 < (chunks [0x6B, 0x65, 0x79, 0x35, 0x32]).length ∧ 0 < [0x6B, 0x65, 0x79, 0x35, 0x32].length / 4 := by decide
theorem witness_KetamaHashOfAnySplit :
    small.latch = none ∧ ∀ p ∈ ([[0x61], [0x31, 0x32, 0x33, 0x34]] : List (List Byte)), 1 ≤ p.length ∧ p.length ≤ 4 := by
  decide
theorem witness_Md5InitStartsAKey : (pending small .md5Init 0).latch = some (held .md5Init 0) := rfl
theorem witness_Md5UpdateAbsorbsTheLanes :
    (pending small (.md5Update 1) 0x61).latch = some (held (.md5Update 1) 0x61) ∧
    (0x80000011 : Word).extractLsb' 0 8 = 0x11 ∧ (0x80000011 : Word).extractLsb' 10 22 ≠ 0 := by decide
theorem witness_AbsorbStoresAndCompresses : (manyA 62).level.toNat < 63 ∧ (manyA 63).level.toNat = 63 := by decide
theorem witness_Md5UpdateBufferFrame :
    (pending { small with md5 := manyA 62 } (.md5Update 4) 0).latch = some (held (.md5Update 4) 0) ∧
    (∃ t, exec (.md5Update 4) (pending { small with md5 := manyA 62 } (.md5Update 4) 0) = .next t) ∧
    (∀ j, j < 4 → 61 ≠ (62 + j) % 64) :=
  ⟨rfl, ⟨_, rfl⟩, by omega⟩
theorem witness_Md5FinalPublishesTheDigest : (pending abc .md5Final 0).latch = some (held .md5Final 0) := rfl
theorem witness_FinishPadsOneOrTwoBlocks :
    ((manyA 55).level.toNat ≤ 55 ∧ 54 < (manyA 55).level.toNat) ∧ 56 ≤ (manyA 56).level.toNat := by decide
theorem witness_Md5HashOfAnySplit :
    small.latch = none ∧ ∀ p ∈ ([[0x61], [0x62, 0x63]] : List (List Byte)), 1 ≤ p.length ∧ p.length ≤ 4 := by decide
theorem witness_RingBeginStartsABuild :
    (pending small (.ringBegin 1) 0).latch = some (held (.ringBegin 1) 0) ∧ (1 : Half) ≠ 0 ∧
    (pending small (.ringBegin 0) 0).latch = some (held (.ringBegin 0) 0) := by decide
theorem witness_RingAppendAddsOneEntry :
    (pending (building 2) (.ringAppend 1) 5).latch = some (held (.ringAppend 1) 5) ∧
    small.rstate ≠ .building ∧ (building 2).rstate = .building ∧ (building 4).ringCount.toNat = small.cfg.ringDepth ∧
    (building 2).ringCount.toNat ≠ small.cfg.ringDepth ∧ (building 2).ringNodes.toNat ≤ (2 : Half).toNat ∧
    (1 : Half).toNat < (building 2).ringNodes.toNat ∧ 0 < (building 2).ringCount.toNat ∧
    (4 : Word).toNat < ((building 2).ringEntry 1).point.toNat ∧ ((building 2).ringEntry 1).point.toNat ≤ (5 : Word).toNat := by
  decide
theorem witness_RingCommitPublishes :
    (pending (building 2) .ringCommit 0).latch = some (held .ringCommit 0) ∧ small.rstate ≠ .building ∧
    (building 0).rstate = .building ∧ (building 0).ringCount = 0 ∧ (building 2).ringCount ≠ 0 := by decide
theorem witness_RingLookupSelectsTheLowestHit :
    (pending ringE (.ringLookup .data) 0x20000000).latch = some (held (.ringLookup .data) 0x20000000) ∧
    small.rstate = .empty ∧ (building 1).rstate = .building ∧ ringE.rstate = .ready ∧
    (1 < ringE.ringCount.toNat ∧ (0x20000000 : Word).toNat ≤ (ringE.ringEntry 1).point.toNat ∧
      ∀ j, j < 1 → (ringE.ringEntry j).point.toNat < (0x20000000 : Word).toNat) ∧
    (0 < ringE.ringCount.toNat ∧
      ∀ j, j < ringE.ringCount.toNat → (ringE.ringEntry j).point.toNat < (0x80000001 : Word).toNat) := by
  decide
theorem witness_LookupIsTheLowerBoundBinarySearch :
    (pending ringE (.ringLookup .data) 0x20000000).Inv ∧ ringE.rstate = .ready ∧
    (pending ringE (.ringLookup .data) 0x20000000).latch = some (held (.ringLookup .data) 0x20000000) :=
  ⟨Inv_pending ringE_inv _ _ (by decide), rfl, rfl⟩
theorem witness_ReadyRingCoversEveryQuery :
    (pending oneNode (.ringLookup .data) 0x55555556).Inv ∧ oneNode.rstate = .ready ∧ oneNode.ringNodes = 1 ∧
    (pending oneNode (.ringLookup .data) 0x55555556).latch = some (held (.ringLookup .data) 0x55555556) :=
  ⟨Inv_pending oneNode_inv _ _ (by decide), rfl, rfl, rfl⟩
theorem witness_RingStateMovesOnlyAsTheTable :
    (∃ t, step (pending (building 2) .ringCommit 0) = .next t) ∧ (building 2).rstate = .building ∧
    1 ≤ (building 2).ringCount.toNat ∧ (2 : Half) ≠ 0 ∧ (scheduled ringE .reset).script = .reset :: [] ∧
    (∃ t, exec (.ringLookup .data) (pending ringE (.ringLookup .data) 0x20000000) = .next t ∧ t.lk ≠ ringE.lk) ∧
    (∃ t, exec (.ringAppend 1) (pending (building 2) (.ringAppend 1) 5) = .next t ∧ t.ring ≠ (building 2).ring) :=
  ⟨⟨_, rfl⟩, rfl, by decide, by decide, rfl, ⟨_, rfl, by decide⟩, ⟨_, rfl, by decide⟩⟩
theorem witness_ReadyRingIsImmutable :
    ringE.rstate = .ready ∧ ¬ resetTurn (pending ringE (.ringAppend 0) 7) ∧
    (∃ t, step (pending ringE (.ringAppend 0) 7) = .next t) ∧
    (∀ l, (pending ringE (.ringAppend 0) 7).latch = some l → l.word.extractLsb' 0 8 ≠ 0x20) :=
  ⟨rfl, (by rintro ⟨_, h⟩; cases h), ⟨_, rfl⟩, (by intro l h; cases h; decide)⟩
theorem witness_OnlyAppendWritesTheTable :
    ¬ resetTurn (pending (building 1) (.ringAppend 0) 7) ∧
    ∃ t, step (pending (building 1) (.ringAppend 0) 7) = .next t ∧ t.ringEntry 1 ≠ (building 1).ringEntry 1 :=
  ⟨(by rintro ⟨_, h⟩; cases h), _, rfl, by decide⟩
theorem witness_FailedCommandOnlyRecordsItsError :
    (pending small .ringCommit 0).latch = some (held .ringCommit 0) ∧
    raises (pending small .ringCommit 0) (held .ringCommit 0) .ringCommit = some .ringState ∧
    raises (pending (building 2) .ringCommit 0) (held .ringCommit 0) .ringCommit = none ∧ small.latch = none := by decide
theorem witness_FirstErrorStaysAndDoesNotBlock :
    ({ small with error := some .busy }).error = some .busy ∧ (∃ t, step { small with error := some .busy } = .next t) ∧
    (∃ t, exec .nop (pending small .nop 0) = .next t) ∧
    (small.latch = none ∧ decode 0x00000001 = .ok .crcInit ∧
      writeTurn (scheduled { small with error := some .busy } (.host (.write 0x1010 4 1))) 0x10 1) :=
  ⟨rfl, ⟨_, rfl⟩, ⟨_, rfl⟩, rfl, by decide, [], rfl⟩
theorem witness_DoneIsStickyAndSetByCompletion :
    (∃ t, exec .nop (pending small .nop 0) = .next t) ∧
    (({ small with done := true }).done = true ∧ ∃ t, step { small with done := true } = .next t) ∧
    (small.done = false ∧ ∃ t, step (pending small .nop 0) = .next t ∧ t.done = true) ∧
    (small.latch = none ∧ writeTurn (scheduled small (.host (.write 0x1010 4 4))) 0x10 4 ∧
      decode 0x00000004 = .error .unassignedOp) ∧
    (writeTurn (scheduled small (.host (.write 0x100C 4 2))) 0x0C 2 ∧
      ∃ t, step (scheduled small (.host (.write 0x100C 4 2))) = .next t) :=
  ⟨⟨_, rfl⟩, ⟨rfl, _, rfl⟩, ⟨rfl, _, rfl, rfl⟩, ⟨rfl, ⟨[], rfl⟩, by decide⟩, ⟨⟨[], rfl⟩, _, rfl⟩⟩
theorem witness_PendingFromAcceptanceToCompletion :
    ((pending small .nop 0).latch = some (held .nop 0) ∧ ∃ t, step (pending small .nop 0) = .next t) ∧
    (small.latch = none ∧ ∃ t l, step (scheduled small (.host (.write 0x1010 4 0))) = .next t ∧ t.latch = some l) :=
  ⟨⟨rfl, _, rfl⟩, rfl, _, _, rfl, rfl⟩
theorem witness_IrqFollowsDoneErrAndEnable :
    (∃ t, exec .nop (pending small .nop 0) = .next t) ∧
    (small.latch = none ∧ writeTurn (scheduled small (.host (.write 0x1010 4 4))) 0x10 4 ∧
      decode 0x00000004 = .error .unassignedOp) ∧
    ((pending small .nop 0).latch = some (held .nop 0) ∧
      writeTurn (scheduled (pending small .nop 0) (.host (.write 0x1010 4 1))) 0x10 1) ∧
    (writeTurn (scheduled small (.host (.write 0x1008 4 2))) 0x08 2 ∧
      ∃ t, step (scheduled small (.host (.write 0x1008 4 2))) = .next t) ∧
    (writeTurn (scheduled small (.host (.write 0x100C 4 2))) 0x0C 2 ∧
      ∃ t, step (scheduled small (.host (.write 0x100C 4 2))) = .next t) :=
  ⟨⟨_, rfl⟩, ⟨rfl, ⟨[], rfl⟩, by decide⟩, ⟨rfl, [], rfl⟩, ⟨⟨[], rfl⟩, _, rfl⟩, ⟨⟨[], rfl⟩, _, rfl⟩⟩
theorem witness_CommandsLeaveTheHostsRegisters : ∃ t, exec .crcInit (pending small .crcInit 0) = .next t := ⟨_, rfl⟩
theorem witness_FamiliesLeaveTheOtherUnits :
    (∃ t, exec .crcFinal (pending small .crcFinal 0) = .next t) ∧ (∃ t, exec .md5Final (pending abc .md5Final 0) = .next t) ∧
    (∃ t, exec .ringCommit (pending (building 2) .ringCommit 0) = .next t) :=
  ⟨⟨_, rfl⟩, ⟨_, rfl⟩, ⟨_, rfl⟩⟩
theorem witness_PendingCommandIgnoresHostWrites :
    Reg.status ∈ [Reg.dataIn, .ctrl, .status] ∧ Reg.dataIn ∈ [Reg.dataIn, .ctrl, .status] ∧ Reg.dataIn ≠ .status ∧
    (pending { small with error := some .busy } .ringCommit 0).latch = some (held .ringCommit 0) ∧
    ∃ t, exec .ringCommit (pending { small with error := some .busy } .ringCommit 0) = .next t :=
  ⟨by decide, by decide, by decide, rfl, _, rfl⟩
theorem witness_ResultsAppearOnlyAtCompletion :
    (scheduled small (.host (.write 0x1010 4 0))).script = .host (.write 0x1010 4 0) :: [] ∧
    ∃ t, step (scheduled small (.host (.write 0x1010 4 0))) = .next t :=
  ⟨rfl, _, rfl⟩
theorem witness_ResetStepRestoresEveryRegister : (scheduled ringE .reset).script = .reset :: [] := rfl
theorem witness_ResetStateMeetsTheInvariant :
    Config.suggested.legal = true ∧ ({ ringDepth := 1, khgBase := 0 } : Config).legal = true ∧
    ({ ringDepth := 65536, khgBase := 128 } : Config).legal = true := by decide
theorem witness_StepKeepsTheInvariant :
    ((pending { ringE with md5 := abc.md5 } (.ringLookup .data) 0x20000000).setScript [.engine]).Inv ∧
    ∃ t, step ((pending { ringE with md5 := abc.md5 } (.ringLookup .data) 0x20000000).setScript [.engine]) = .next t :=
  ⟨busy_inv, _, rfl⟩
theorem witness_OnlyIllegalAccessesStop :
    ringE.Inv ∧ step (scheduled ringE (.host (.read 0x1001 4))) = .refused .misalignedAccess ∧
    (Access.read 0x1001 4).legal ringE.cfg = false :=
  ⟨ringE_inv, rfl, by decide⟩
theorem witness_PendingCommandCompletes :
    (pending ringE .nop 0).Inv ∧ (pending ringE .nop 0).latch = some (held .nop 0) ∧ (pending ringE .nop 0).script = [] :=
  ⟨Inv_pending ringE_inv _ _ (by decide), rfl, rfl⟩
theorem witness_LoadingASortedListMakesAReadyRing :
    let ps : List RingPoint := [⟨1, 0⟩, ⟨2, 2⟩, ⟨2, 1⟩, ⟨0xFFFFFFFF, 0⟩]
    small.latch = none ∧ small.cfg.legal = true ∧ ps ≠ [] ∧ ps.length ≤ small.cfg.ringDepth ∧ (∀ p ∈ ps, p.node < 3) ∧
    ps.Pairwise (fun p q => p.point ≤ q.point) := by decide
theorem witness_NodePointsAreTheDigestWords : 39 < 40 * 1 ∧ 3 < 4 := by decide
theorem witness_DecIsTheDecimalForm : (dec 0).head? = some 0x30 := by decide

/-- Node lists for the builds: one node of weight 1, and the same with a node of weight 0 after it. -/
def oneHostNode : List HostNode := [⟨[0x61], 1⟩]
def zeroWeight : List HostNode := oneHostNode ++ [⟨[0x62], 0⟩]

/-- Reset with a table of exactly the points of one node of weight 1. -/
def roomy : State := State.resetWith { ringDepth := 160, khgBase := 0x1000 }

theorem witness_InvalidWeightRejectsTheBuild :
    (∃ nd ∈ zeroWeight, nd.weight ≤ 0) ∧ ([] : List HostNode).length = 0 ∧
    ((∀ nd ∈ oneHostNode, 0 < nd.weight) ∧ 1 ≤ oneHostNode.length ∧ oneHostNode.length ≤ 65535) ∧
    small.cfg.ringDepth < totalPoints oneHostNode ∧ totalPoints oneHostNode ≤ roomy.cfg.ringDepth := by
  refine ⟨⟨⟨[0x62], 0⟩, ?_, ?_⟩, rfl, ?_, ?_, ?_⟩ <;> decide
/-- The clause over a list too long for RING_BEGIN, at its boundary. -/
theorem witness_InvalidWeight_tooManyNodes :
    ∃ nodes : List HostNode, (∀ nd ∈ nodes, 0 < nd.weight) ∧ 65535 < nodes.length := by
  refine ⟨List.replicate 65536 ⟨[0x61], 1⟩, fun nd h => ?_, ?_⟩
  · rw [List.eq_of_mem_replicate h]
    decide
  · rw [List.length_replicate]
    decide
theorem witness_LookupEndsAsStatusSays :
    (ringE.latch = none ∧ ringE.error = none ∧ ringE.rstate = .ready) ∧
    (small.latch = none ∧ small.error = none ∧ small.rstate = .empty) ∧
    ((building 1).latch = none ∧ (building 1).error = none ∧ (building 1).rstate = .building) ∧
    ({ ringE with error := some .busy }).latch = none := by decide
theorem witness_LoadChecksEachCommand :
    let fits : List RingPoint := [⟨1, 0⟩, ⟨2, 2⟩, ⟨2, 1⟩, ⟨0xFFFFFFFF, 0⟩]
    let tooMany := fits ++ [⟨0xFFFFFFFF, 2⟩]
    small.latch = none ∧ small.cfg.legal = true ∧ small.error = none ∧
    (fits ≠ [] ∧ (∀ p ∈ fits, p.node < 3) ∧ fits.Pairwise (fun p q => p.point ≤ q.point) ∧
      fits.length ≤ small.cfg.ringDepth) ∧
    (tooMany ≠ [] ∧ (∀ p ∈ tooMany, p.node < 3) ∧ tooMany.Pairwise (fun p q => p.point ≤ q.point) ∧
      small.cfg.ringDepth < tooMany.length) ∧
    ({ small with error := some .busy }).error = some .busy := by decide
theorem witness_BuildMakesAReadyRing :
    roomy.latch = none ∧ roomy.cfg.legal = true ∧ roomy.error = none ∧ (∀ nd ∈ oneHostNode, 0 < nd.weight) ∧
    1 ≤ oneHostNode.length ∧ oneHostNode.length ≤ 65535 ∧ totalPoints oneHostNode ≤ roomy.cfg.ringDepth := by decide

end Sys2Proof.Tests
end

section
/-! PROOFS. `DONE` along a step (10_state.md R21): which steps change it, and to what. -/

namespace Sys2Proof.Machine
open Sys2Proof.Spec

/-! ### Host writes, by the register they reach -/

theorem Reg.ofSlot_status {n : Nat} : Reg.ofSlot n = .status → n = 3 := by
  unfold Reg.ofSlot
  split <;> simp

theorem Reg.ofSlot_cmd {n : Nat} : Reg.ofSlot n = .cmd → n = 4 := by
  unfold Reg.ofSlot
  split <;> simp

/-- A scheduled write that reaches a register with only one slot is a write at that slot's offset. -/
theorem writeTurn_of_target {s : State} {addr width slot : Nat} {v : Word} {r : Reg} {es : List PortEvent}
    (hs : s.script = .host (.write addr width v) :: es) (ht : target s.cfg addr width = .ok r)
    (hslot : ∀ n, Reg.ofSlot n = r → n = slot) : writeTurn s (4 * slot) v := by
  obtain ⟨hle, -, rfl, halign, hr⟩ := target_ok ht
  have hn := hslot _ hr.symm
  have haddr : addr = s.cfg.khgBase + 4 * slot := by omega
  exact ⟨es, haddr ▸ hs⟩

/-- The step of a host write inside the window (20_memory.md R46, R48). -/
theorem step_writeTurn {s : State} {slot : Nat} {v : Word} (hslot : slot < 32) (h : writeTurn s (4 * slot) v) :
    ∃ es, step s = .next ((s.writeReg (Reg.ofSlot slot) v).setScript es) := by
  obtain ⟨es, hs⟩ := h
  refine ⟨es, ?_⟩
  rw [step_host hs]
  simp only [hostStep, State.setScript_cfg, target_slot _ _ hslot, State.writeReg_setScript]

/-! ### What changes DONE -/

theorem exec_done {i : Instr} {s t : State} (h : exec i s = .next t) : t.done = true := by
  obtain ⟨l, -, ⟨u, -, rfl⟩ | ⟨c, -, rfl⟩⟩ := exec_next h
  · exact State.finish_done u
  · exact State.finish_done _

theorem State.writeStatus_done (s : State) (v : Word) : (s.writeStatus v).done = (s.done && !v.getLsbD 1) := by
  rw [State.writeStatus_eq]

theorem State.acceptCommand_illegal_done {s : State} {v : Word} {e : DecodeError} (hl : s.latch = none)
    (hd : decode v = .error e) : (s.acceptCommand v).done = true := by
  simp [State.acceptCommand, State.busy, hl, hd]

/-- Everything a register write can do to DONE: the W1C write of STATUS, an illegal CMD word, or nothing. -/
theorem State.writeReg_done_cases (s : State) (r : Reg) (v : Word) :
    (r = .status ∧ (s.writeReg r v).done = (s.done && !v.getLsbD 1)) ∨
    (r = .cmd ∧ s.latch = none ∧ (∃ e, decode v = .error e) ∧ (s.writeReg r v).done = true) ∨
    (s.writeReg r v).done = s.done := by
  obtain ⟨-, hw⟩ | ⟨hr, hw⟩ | ⟨hr, hw⟩ | ⟨-, hw⟩ | ⟨-, -, -, -, hw⟩ := s.writeReg_cases r v <;> rw [hw]
  · exact .inr (.inr rfl)
  · exact .inl ⟨hr, s.writeStatus_done v⟩
  · obtain ⟨l, -, ha⟩ | ⟨hl, he, ha⟩ | ⟨-, -, ha⟩ := s.acceptCommand_cases v <;> rw [ha]
    · exact .inr (.inr (s.recordError_done _))
    · exact .inr (.inl ⟨hr, hl, he, State.setDone_done _⟩)
    · exact .inr (.inr rfl)
  · exact .inr (.inr rfl)
  · exact .inr (.inr rfl)

theorem engineStep_done {s t : State} (h : engineStep s = .next t) :
    (s.latch.isSome = true ∧ t.done = true) ∨ t.done = s.done := by
  obtain ⟨-, rfl⟩ | ⟨l, i, hl, -, hx⟩ := engineStep_next h
  · exact .inr rfl
  · exact .inl ⟨by rw [hl]; rfl, exec_done hx⟩

/-- Everything a step can do to DONE: a completion sets it, a reset clears it, the W1C write of STATUS clears it if its
bit 1 is set, an illegal CMD word sets it, and every other step keeps it. -/
theorem step_done {s t : State} (h : step s = .next t) :
    (engineTurn s ∧ s.latch.isSome = true ∧ t.done = true) ∨
    (resetTurn s ∧ t.done = false) ∨
    (∃ v, writeTurn s 0x0C v ∧ t.done = (s.done && !v.getLsbD 1)) ∨
    (s.latch = none ∧ (∃ v e, writeTurn s 0x10 v ∧ decode v = .error e) ∧ t.done = true) ∨
    t.done = s.done := by
  obtain ⟨hs, he⟩ | ⟨a, es, hs, hh⟩ | ⟨es, hs, he⟩ | ⟨es, hs, rfl⟩ := step_next h
  · obtain ⟨hl, hd⟩ | hd := engineStep_done he
    · exact .inl ⟨.inl hs, hl, hd⟩
    · exact .inr (.inr (.inr (.inr hd)))
  · obtain ⟨_, _, _, rfl, -, rfl⟩ | ⟨addr, w, v, r, rfl, ht, rfl⟩ := hostStep_next hh
    · exact .inr (.inr (.inr (.inr rfl)))
    · obtain ⟨rfl, hd⟩ | ⟨rfl, hl, ⟨e, he⟩, hd⟩ | hd := (s.setScript es).writeReg_done_cases r v
      · exact .inr (.inr (.inl ⟨v, writeTurn_of_target hs ht @Reg.ofSlot_status, hd⟩))
      · exact .inr (.inr (.inr (.inl ⟨hl, ⟨v, e, writeTurn_of_target hs ht @Reg.ofSlot_cmd, he⟩, hd⟩)))
      · exact .inr (.inr (.inr (.inr hd)))
  · obtain ⟨hl, hd⟩ | hd := engineStep_done he
    · exact .inl ⟨.inr ⟨es, hs⟩, hl, hd⟩
    · exact .inr (.inr (.inr (.inr hd)))
  · exact .inr (.inl ⟨⟨es, hs⟩, rfl⟩)

theorem step_keeps_done {s t : State} (hd : s.done = true) (h : step s = .next t) :
    t.done = true ∨ resetTurn s ∨ ∃ v, writeTurn s 0x0C v ∧ v.getLsbD 1 = true := by
  obtain ⟨-, -, ht⟩ | ⟨hr, -⟩ | ⟨v, hw, ht⟩ | ⟨-, -, ht⟩ | ht := step_done h
  · exact .inl ht
  · exact .inr (.inl hr)
  · cases hv : v.getLsbD 1 with
    | true => exact .inr (.inr ⟨v, hw, hv⟩)
    | false => exact .inl (by rw [ht, hd, hv]; rfl)
  · exact .inl ht
  · exact .inl (ht.trans hd)

theorem step_sets_done {s t : State} (hd : s.done = false) (h : step s = .next t) (ht : t.done = true) :
    (engineTurn s ∧ s.latch.isSome = true) ∨ (s.latch = none ∧ ∃ v e, writeTurn s 0x10 v ∧ decode v = .error e) := by
  obtain ⟨he, hl, -⟩ | ⟨-, hf⟩ | ⟨v, -, hf⟩ | ⟨hl, hw, -⟩ | hf := step_done h
  · exact .inl ⟨he, hl⟩
  · simp [hf] at ht
  · simp [hf, hd] at ht
  · exact .inr ⟨hl, hw⟩
  · simp [hf, hd] at ht

/-- Settles O39: `step_done` names every step that changes DONE; the writes of CMD and STATUS follow `step_writeTurn`. -/
theorem doneIsStickyAndSetByCompletion : Obligations.DoneIsStickyAndSetByCompletion := by
  refine ⟨fun _ _ _ => exec_done, fun _ _ => step_keeps_done, fun _ _ => step_sets_done, ?_, ?_, fun _ => rfl⟩
  · intro s v e hl hw hd
    obtain ⟨es, hstep⟩ := step_writeTurn (slot := 4) (by decide) hw
    exact ⟨_, hstep, State.acceptCommand_illegal_done hl hd⟩
  · intro s t v hw h
    obtain ⟨es, hstep⟩ := step_writeTurn (slot := 3) (by decide) hw
    obtain rfl : _ = t := by simpa [hstep] using h
    exact s.writeStatus_done v

end Sys2Proof.Machine
end

section
/-! PROOFS. The host's accesses (20_memory.md R44, R47, R48): which have a step, what a read of each offset returns, and
what a write to each offset does. -/

namespace Sys2Proof.Machine
open Sys2Proof.Spec

/-! ### Which accesses reach a register -/

theorem target_error {c : Config} {addr width : Nat} {e : Refusal} (h : target c addr width = .error e) :
    (e = .outsideWindow ∧ (addr < c.khgBase ∨ c.khgBase + 128 ≤ addr)) ∨
    (e = .accessWidth ∧ width ≠ 4) ∨
    (e = .misalignedAccess ∧ (addr - c.khgBase) % 4 ≠ 0) := by
  unfold target at h
  split at h
  next hout => cases h; exact .inl ⟨rfl, hout⟩
  split at h
  next hwidth => cases h; exact .inr (.inl ⟨rfl, hwidth⟩)
  split at h
  next halign => cases h; exact .inr (.inr ⟨rfl, halign⟩)
  cases h

/-- An access reaches a register exactly when R43 and R44 admit it. -/
theorem target_ok_iff (c : Config) (addr width : Nat) :
    (∃ r, target c addr width = .ok r) ↔
      width = 4 ∧ (addr - c.khgBase) % 4 = 0 ∧ c.khgBase ≤ addr ∧ addr < c.khgBase + 128 := by
  constructor
  · rintro ⟨r, hr⟩
    obtain ⟨hle, hlt, hwidth, halign, -⟩ := target_ok hr
    exact ⟨hwidth, halign, hle, hlt⟩
  · rintro ⟨hwidth, halign, hle, hlt⟩
    cases h : target c addr width with
    | ok r => exact ⟨r, rfl⟩
    | error e =>
      obtain ⟨-, hout⟩ | ⟨-, hw⟩ | ⟨-, ha⟩ := target_error h
      · omega
      · exact absurd hwidth hw
      · exact absurd halign ha

/-- A scheduled access steps if it reaches a register, and is refused under the name that `target` gives if not. -/
theorem step_access {s : State} {addr width : Nat} {v : Word} {es : List PortEvent}
    (hs : s.script = .host (.read addr width) :: es ∨ s.script = .host (.write addr width v) :: es) :
    (∃ r t, target s.cfg addr width = .ok r ∧ step s = .next t) ∨
    (∃ e, target s.cfg addr width = .error e ∧ step s = .refused e) := by
  cases ht : target s.cfg addr width with
  | ok r =>
    refine .inl ⟨r, ?_⟩
    obtain hs | hs := hs <;> simp [step_host hs, hostStep, ht]
  | error e =>
    refine .inr ⟨e, rfl, ?_⟩
    obtain hs | hs := hs <;> simp [step_host hs, hostStep, ht]

/-- Settles O9: `step_access` reduces the step to `target`, and `target_ok_iff` and `target_error` say what that admits
and under which name it refuses the rest. -/
theorem onlyAlignedWordAccessesHaveAStep : Obligations.OnlyAlignedWordAccessesHaveAStep := by
  intro s addr width v es hs
  rw [← target_ok_iff]
  obtain ⟨r, t, ht, hstep⟩ | ⟨e, ht, hstep⟩ := step_access hs
  · have hnext : ∃ t, step s = .next t := ⟨t, hstep⟩
    exact ⟨iff_of_true hnext ⟨r, ht⟩, fun hno => absurd hnext hno⟩
  · refine ⟨iff_of_false ?_ ?_, fun _ => ?_⟩
    · simp [hstep]
    · simp [ht]
    · rw [hstep]
      obtain ⟨rfl, hout⟩ | ⟨rfl, hw⟩ | ⟨rfl, ha⟩ := target_error ht
      · exact .inl ⟨rfl, hout⟩
      · exact .inr (.inl ⟨rfl, hw⟩)
      · exact .inr (.inr ⟨rfl, ha⟩)

/-! ### The register words as sums of their fields -/

theorem toNat_append_eq_mul_add {m n : Nat} (x : BitVec m) (y : BitVec n) :
    (x ++ y).toNat = x.toNat * 2 ^ n + y.toNat := by
  rw [BitVec.toNat_append, ← Nat.shiftLeft_add_eq_or_of_lt y.isLt, Nat.shiftLeft_eq]

/-- A flag's share of a register word whose bit for it has weight `k`. -/
theorem ite_eq_toNat_mul (b : Bool) (k : Nat) : (if b then k else 0) = b.toNat * k := by
  cases b <;> simp

theorem State.errcode_toNat (s : State) : s.errcode.toNat = errorNumber s.error := by
  unfold State.errcode
  cases s.error with
  | none => rfl
  | some e => cases e <;> rfl

theorem State.statusWord_eq_sum (s : State) : s.statusWord = statusSum s := by
  have hlevel := s.md5.level.isLt
  have herror := s.errcode_toNat ▸ s.errcode.isLt
  have hbusy := s.latch.isSome.toNat_le
  have hdone := s.done.toNat_le
  have herr := s.error.isSome.toNat_le
  apply BitVec.eq_of_toNat_eq
  simp only [State.statusWord, statusSum, toNat_append_eq_mul_add, BitVec.toNat_ofNat, BitVec.toNat_ofBool,
    ite_eq_toNat_mul, State.errcode_toNat, State.err, State.busy]
  cases s.rstate <;> simp only [RState.code, BitVec.reduceToNat] <;> omega

theorem State.ctrlWord_eq_sum (s : State) :
    s.ctrlWord = BitVec.ofNat 32 ((if s.ctrl.crcslice then 1 else 0) + (if s.ctrl.irqen then 2 else 0)) := by
  unfold State.ctrlWord
  cases s.ctrl.crcslice <;> cases s.ctrl.irqen <;> rfl

theorem capValue_eq {c : Config} (h : c.legal = true) : capValue c = BitVec.ofNat 32 c.ringDepth := by
  have hdepth : c.ringDepth ≤ 65536 := by simp [Config.legal] at h; omega
  apply BitVec.eq_of_toNat_eq
  simp only [capValue, BitVec.toNat_setWidth, BitVec.toNat_ofNat]
  omega

theorem lkIndexWord_eq_sum (r : Lookup) :
    lkIndexWord r = BitVec.ofNat 32 ((if r.wrap then 0x80000000 else 0) + r.index.toNat) := by
  have hindex := r.index.isLt
  have hwrap := r.wrap.toNat_le
  apply BitVec.eq_of_toNat_eq
  simp only [lkIndexWord, toNat_append_eq_mul_add, BitVec.toNat_ofNat, BitVec.toNat_ofBool, ite_eq_toNat_mul]
  omega

/-! ### What a read returns -/

/-- The table of R16 and R48 is the register of each of the 32 slots. -/
theorem windowValues_eq_readReg {s : State} (h : s.cfg.legal = true) :
    windowValues s = (List.range 32).map fun slot => (4 * slot, s.readReg (Reg.ofSlot slot)) := by
  simp [windowValues, List.range_succ, Reg.ofSlot, State.readReg, idValue, capValue_eq h, State.ctrlWord_eq_sum,
    State.statusWord_eq_sum, lkIndexWord_eq_sum, BitVec.ofNat_toNat]

theorem step_read_slot {s : State} {slot : Nat} {es : List PortEvent} (hslot : slot < 32)
    (hs : s.script = .host (.read (s.cfg.khgBase + 4 * slot) 4) :: es) :
    step s = .next { s with script := es, rdata := some (s.readReg (Reg.ofSlot slot)) } := by
  rw [step_host hs]
  simp only [hostStep, State.setScript_cfg, target_slot _ _ hslot, State.readReg_setScript]
  rfl

theorem step_read_windowValue {s : State} {off : Nat} {v : Word} {es : List PortEvent} (hc : s.cfg.legal = true)
    (hv : (off, v) ∈ windowValues s) (hs : s.script = .host (.read (s.cfg.khgBase + off) 4) :: es) :
    step s = .next { s with script := es, rdata := some v } := by
  rw [windowValues_eq_readReg hc] at hv
  obtain ⟨slot, hslot, heq⟩ := List.mem_map.1 hv
  obtain ⟨rfl, rfl⟩ := Prod.mk.inj heq
  exact step_read_slot (List.mem_range.1 hslot) hs

/-! ### What a write does -/

theorem step_write_slot {s : State} {slot : Nat} {v : Word} {es : List PortEvent} (hslot : slot < 32)
    (hs : s.script = .host (.write (s.cfg.khgBase + 4 * slot) 4 v) :: es) :
    step s = .next ((s.setScript es).writeReg (Reg.ofSlot slot) v) := by
  rw [step_host hs]
  simp only [hostStep, State.setScript_cfg, target_slot _ _ hslot]

/-- Every slot but CTRL, STATUS, CMD and DATA_IN ignores a write (20_memory.md R48). -/
theorem State.writeReg_ofSlot_ignored (s : State) {slot : Nat} (v : Word) (hslot : slot ∉ [2, 3, 4, 5]) :
    s.writeReg (Reg.ofSlot slot) v = s := by
  unfold Reg.ofSlot
  split <;> simp_all [State.writeReg]

/-- Settles O8: `step_read_windowValue` for the reads, `step_write_slot` at the slot of each target for the writes. -/
theorem registerAccessEffects : Obligations.RegisterAccessEffects := by
  refine fun s es hc => ⟨fun _ _ => step_read_windowValue hc, fun v hs => ?ctrl, fun v hs => ?dataIn,
    fun v hs => ?status, fun v hs => ?cmd, fun slot v hslot hignored hs => ?ignored⟩
  case ctrl => exact step_write_slot (slot := 2) (by decide) hs
  case dataIn => exact step_write_slot (slot := 5) (by decide) hs
  case status =>
    have hdone : (s.done && !v.getLsbD 1) = if v.getLsbD 1 then false else s.done := by cases v.getLsbD 1 <;> simp
    rw [step_write_slot (slot := 3) (by decide) hs, ← hdone]
    exact congrArg _ ((s.setScript es).writeStatus_eq v)
  case cmd => exact step_write_slot (slot := 4) (by decide) hs
  case ignored =>
    rw [step_write_slot hslot hs, State.writeReg_ofSlot_ignored _ v hignored]
    rfl

end Sys2Proof.Machine
end

section
/-! PROOFS. The opcode table (30_encoding.md R64): at most one row matches a word, and decoding follows it. -/

namespace Sys2Proof

/-! ### At most one row matches -/

/-- OP is bits [7:0] alone (30_encoding.md R59). -/
theorem fieldOp_and_opMask (v : Word) : fieldOp (v &&& 0xFF) = fieldOp v := by
  unfold fieldOp
  rw [BitVec.extractLsb'_and]
  exact BitVec.and_allOnes

theorem opcodeTable_ops_nodup : (opcodeTable.map fun r => fieldOp r.bits).Nodup := by decide

theorem fieldOp_of_hit {r : OpcodeRow} (hr : r ∈ opcodeTable) {v : Word} (h : v &&& r.mask = r.bits) :
    fieldOp r.bits = fieldOp v := by
  rw [← fieldOp_and_opMask r.bits, ← op_of_hit hr h, fieldOp_and_opMask]

theorem eq_of_hits {v : Word} {r r' : OpcodeRow} (hr : r ∈ opcodeTable) (hr' : r' ∈ opcodeTable)
    (h : v &&& r.mask = r.bits) (h' : v &&& r'.mask = r'.bits) : r = r' :=
  List.inj_on_of_nodup_map opcodeTable_ops_nodup hr hr' ((fieldOp_of_hit hr h).trans (fieldOp_of_hit hr' h').symm)

theorem opcodeTable_nodup : opcodeTable.Nodup := List.Nodup.of_map _ opcodeTable_ops_nodup

/-! ### Decoding follows the matching row -/

theorem decode_of_hit {v : Word} {r : OpcodeRow} (hr : r ∈ opcodeTable) (h : v &&& r.mask = r.bits) :
    decode v = .ok (r.instr v) := by
  cases hd : decode v with
  | ok i =>
    obtain ⟨r', hr', h', rfl⟩ := decode_ok_row hd
    rw [eq_of_hits hr hr' h h']
  | error e => exact absurd h (decode_error_row hd r hr)

theorem decode_error_of_no_hit {v : Word} (h : ∀ r ∈ opcodeTable, v &&& r.mask ≠ r.bits) :
    ∃ e, decode v = .error e := by
  cases hd : decode v with
  | ok i =>
    obtain ⟨r, hr, hhit, -⟩ := decode_ok_row hd
    exact absurd hhit (h r hr)
  | error e => exact ⟨e, rfl⟩

/-- Settles O3: two rows that match one word share its OP, and the OPs of the table differ (`eq_of_hits`), so the row
that the search finds is the row that matches (`decode_of_hit`). -/
theorem decodeFollowsTheUniqueRow : Obligations.DecodeFollowsTheUniqueRow := by
  refine ⟨fun _ _ => decode_of_hit, fun _ => decode_error_of_no_hit, fun v j k hj hk hhitj hhitk => ?_,
    opcodeTable_op_mask, opcodeTable_ops_nodup⟩
  have hrow : opcodeTable[j] = opcodeTable[k] := eq_of_hits (List.getElem_mem hj) (List.getElem_mem hk) hhitj hhitk
  exact opcodeTable_nodup.getElem_inj_iff.1 hrow

end Sys2Proof
end

section
/-! PROOFS. The three ends of a CMD write (30_encoding.md R63). -/

namespace Sys2Proof.Machine

theorem State.acceptCommand_busy {s : State} (v : Word) (hl : s.latch.isSome = true) :
    s.acceptCommand v = s.recordError .busy := by
  simp [State.acceptCommand, State.busy, hl]

theorem State.acceptCommand_illegal {s : State} {v : Word} {e : DecodeError} (hl : s.latch = none)
    (hd : decode v = .error e) : s.acceptCommand v = (s.recordError .illegalCmd).setDone := by
  simp [State.acceptCommand, State.busy, hl, hd]

theorem State.acceptCommand_legal {s : State} {v : Word} {i : Instr} (hl : s.latch = none) (hd : decode v = .ok i) :
    s.acceptCommand v = s.setLatch (s.latchOf v) := by
  simp [State.acceptCommand, State.busy, hl, hd]

/-- A scheduled write of CMD accepts its value (20_memory.md R48). -/
theorem step_write_cmd {s : State} {v : Word} {es : List PortEvent}
    (hs : s.script = .host (.write (s.cfg.khgBase + 0x10) 4 v) :: es) :
    step s = .next ((s.setScript es).acceptCommand v) :=
  step_write_slot (slot := 4) (by decide) hs

/-- Settles O10: `step_write_cmd` reduces the step to acceptance, and each clause is one of its three ends. -/
theorem commandAcceptance : Obligations.CommandAcceptance := by
  intro s v es hs
  rw [step_write_cmd hs]
  refine ⟨fun hbusy => ?busy, fun hidle ⟨e, hd⟩ => ?illegal, fun hidle ⟨i, hd⟩ => ?legal⟩
  case busy =>
    rw [State.acceptCommand_busy (s := s.setScript es) v hbusy, State.recordError_eq]
    rfl
  case illegal =>
    rw [State.acceptCommand_illegal (s := s.setScript es) hidle hd, State.recordError_eq]
    rfl
  case legal =>
    rw [State.acceptCommand_legal (s := s.setScript es) hidle hd]
    rfl

end Sys2Proof.Machine
end

section
/-! PROOFS. Reading a word back as its command (30_encoding.md R64 to R66), and NOP (40_control.md R70). -/

namespace Sys2Proof

/-! ### A word that decodes is the word of its command -/

/-- The encoder fills the bits that a row's mask leaves free with the operands that the row took from there. -/
theorem encode_instr {r : OpcodeRow} (hr : r ∈ opcodeTable) (v : Word) :
    encode (r.instr v) = r.bits ||| (v &&& ~~~ r.mask) := by
  simp only [opcodeTable, List.mem_cons, List.not_mem_nil, or_false] at hr
  obtain rfl | rfl | rfl | rfl | rfl | rfl | rfl | rfl | rfl | rfl | rfl := hr <;>
    simp [encode, placeByteCount_byteCount, placeImm16_fieldImm16, placeSrc_querySource]

theorem encode_of_decode {v : Word} {i : Instr} (h : decode v = .ok i) : encode i = v := by
  obtain ⟨r, hr, hhit, rfl⟩ := decode_ok_row h
  rw [encode_instr hr, ← hhit, and_or_compl]

/-- A command that is read back from its own word is read from no other word. -/
theorem decode_eq_ok_iff {v : Word} {i : Instr} (hi : decode (encode i) = .ok i) : decode v = .ok i ↔ v = encode i :=
  ⟨fun h => (encode_of_decode h).symm, fun h => h ▸ hi⟩

/-! ### The words of an assigned OP -/

theorem decode_error_unusedBitSet_iff {v : Word} {e : DecodeError} (h : decode v = .error e) :
    e = .unusedBitSet ↔ ∃ r ∈ opcodeTable, fieldOp r.bits = fieldOp v := by
  unfold decode at h
  split at h
  · cases h
  · split at h
    next hany => cases h; simpa using hany
    next hnone => cases h; simpa using hnone

/-- A word that carries a row's OP is the row's command, or is illegal for a bit outside the command's fields
(30_encoding.md R65). -/
theorem decode_of_op {v : Word} {r : OpcodeRow} (hr : r ∈ opcodeTable) (hop : fieldOp r.bits = fieldOp v) :
    decode v = .ok (r.instr v) ∨ decode v = .error .unusedBitSet := by
  cases hd : decode v with
  | ok i =>
    obtain ⟨r', hr', hhit, rfl⟩ := decode_ok_row hd
    have hop' : fieldOp r'.bits = fieldOp r.bits := (fieldOp_of_hit hr' hhit).trans hop.symm
    have hrow : r' = r := List.inj_on_of_nodup_map opcodeTable_ops_nodup hr' hr hop'
    exact .inl (by rw [hrow])
  | error e => exact .inr (by rw [(decode_error_unusedBitSet_iff hd).2 ⟨r, hr, hop⟩])

end Sys2Proof

namespace Sys2Proof.Machine

/-! ### NOP -/

/-- A pending command whose family rule raises no error completes with the rule's effect (60_exceptions.md R104). -/
theorem exec_of_body_ok {s t : State} {l : Latch} {i : Instr} (hl : s.latch = some l) (hb : commandBody i s l = .ok t) :
    exec i s = .next t.finish := by
  rw [exec_eq_complete, complete_ok hl hb]

theorem decode_nop_iff (v : Word) : decode v = .ok .nop ↔ v = 0x00000000 :=
  decode_eq_ok_iff (i := .nop) (by decide)

theorem decode_nop_op {v : Word} (hop : v.extractLsb' 0 8 = 0x00) :
    decode v = .ok .nop ∨ decode v = .error .unusedBitSet :=
  decode_of_op (r := ⟨0xFFFFFFFF, 0x00000000, fun _ => .nop⟩) (by simp [opcodeTable]) hop.symm

/-- Settles O12: the word of NOP is its own alone (`decode_nop_iff`), so another word of OP 0 is illegal
(`decode_nop_op`); the family rule of NOP hands the state on, and only `State.finish` changes it. -/
theorem nopOnlyCompletes : Obligations.NopOnlyCompletes := by
  refine ⟨decode_nop_iff, fun v hop hv => ?_, fun s l hl => exec_of_body_ok hl rfl⟩
  exact (decode_nop_op hop).resolve_left fun h => hv ((decode_nop_iff v).1 h)

end Sys2Proof.Machine
end

section
/-! PROOFS. The words of an UPDATE command (30_encoding.md R60, R66): what CRC_UPDATE and MD5_UPDATE share. -/

namespace Sys2Proof

/-- A byte count read back from NM1 (30_encoding.md R60). -/
theorem byteCount_or_placeByteCount {b : Word} (hb : b &&& 0x00000300 = 0) {n : Nat} (hn : 1 ≤ n ∧ n ≤ 4) :
    byteCount (b ||| placeByteCount n) = n := by
  have hfree : fieldNm1 b = 0 := calc
    fieldNm1 b = fieldNm1 (b &&& 0x00000300) := by
      unfold fieldNm1
      rw [BitVec.extractLsb'_and]
      exact BitVec.and_allOnes.symm
    _ = 0 := by rw [hb]; rfl
  have hplaced : fieldNm1 (placeByteCount n) = BitVec.ofNat 2 (n - 1) := by
    obtain ⟨h1, h4⟩ := hn
    interval_cases n <;> rfl
  have hfield : fieldNm1 (b ||| placeByteCount n) = BitVec.ofNat 2 (n - 1) := calc
    fieldNm1 (b ||| placeByteCount n) = fieldNm1 b ||| fieldNm1 (placeByteCount n) := BitVec.extractLsb'_or
    _ = BitVec.ofNat 2 (n - 1) := by rw [hfree, hplaced]; exact BitVec.zero_or
  rw [byteCount, hfield, BitVec.toNat_ofNat]
  omega

/-- A byte count that has an encoding goes in place as it stands. -/
theorem placeByteCount_eq {n : Nat} (hn : n ≤ 4) : placeByteCount n = BitVec.ofNat 32 (n - 1) <<< 8 := by
  interval_cases n <;> rfl

/-- The commands `mk n` are those of the opcode row of an UPDATE command, whose word is `b` with NM1 in place. -/
structure IsUpdate (mk : Nat → Instr) (b : Word) : Prop where
  row : (⟨0xFFFFFCFF, b, fun v => mk (byteCount v)⟩ : OpcodeRow) ∈ opcodeTable
  encode_eq : ∀ n, encode (mk n) = b ||| placeByteCount n
  injective : Function.Injective mk
  nm1 : b &&& 0x00000300 = 0
  unused : b.extractLsb' 10 22 = 0

namespace IsUpdate

variable {mk : Nat → Instr} {b : Word} (h : IsUpdate mk b)
include h

theorem decode_placed (n : Nat) : decode (b ||| placeByteCount n) = .ok (mk (byteCount (b ||| placeByteCount n))) :=
  decode_of_hit h.row (Laws.EncodeInRow.count_hits b n h.nm1)

theorem eq_placed_of_decode {v : Word} {n : Nat} (hd : decode v = .ok (mk n)) : v = b ||| placeByteCount n :=
  (encode_of_decode hd).symm.trans (h.encode_eq n)

theorem byteCount_of_decode {v : Word} {n : Nat} (hd : decode v = .ok (mk n)) : byteCount v = n := by
  have hread := h.decode_placed n
  rw [← h.eq_placed_of_decode hd, hd] at hread
  exact (h.injective (Except.ok.inj hread)).symm

/-- The words of an UPDATE command, both ways: one for each byte count from 1 to 4. -/
theorem decode_iff (v : Word) (n : Nat) :
    decode v = .ok (mk n) ↔ 1 ≤ n ∧ n ≤ 4 ∧ v = b ||| (BitVec.ofNat 32 (n - 1) <<< 8) := by
  constructor
  · intro hd
    obtain ⟨h1, h4⟩ := h.byteCount_of_decode hd ▸ byteCount_le v
    exact ⟨h1, h4, placeByteCount_eq h4 ▸ h.eq_placed_of_decode hd⟩
  · rintro ⟨h1, h4, rfl⟩
    rw [← placeByteCount_eq h4, h.decode_placed, byteCount_or_placeByteCount h.nm1 ⟨h1, h4⟩]

theorem unused_of_decode {v : Word} {n : Nat} (hd : decode v = .ok (mk n)) : v.extractLsb' 10 22 = 0 := by
  have hhit : v &&& 0xFFFFFCFF = b := h.eq_placed_of_decode hd ▸ Laws.EncodeInRow.count_hits b n h.nm1
  calc v.extractLsb' 10 22
      = (v &&& 0xFFFFFCFF).extractLsb' 10 22 := by rw [BitVec.extractLsb'_and]; exact BitVec.and_allOnes.symm
    _ = 0 := hhit ▸ h.unused

/-- A word of the OP with a bit set in [31:10] is illegal (30_encoding.md R65). -/
theorem decode_unused {v : Word} (hop : v.extractLsb' 0 8 = fieldOp b) (hv : v.extractLsb' 10 22 ≠ 0) :
    decode v = .error .unusedBitSet :=
  (decode_of_op h.row hop.symm).resolve_left fun hd => hv (h.unused_of_decode hd)

end IsUpdate

theorem isUpdate_crcUpdate : IsUpdate .crcUpdate 0x00000002 where
  row := by simp [opcodeTable]
  encode_eq _ := rfl
  injective _ _ := Instr.crcUpdate.inj
  nm1 := by decide
  unused := by decide

end Sys2Proof
end

section
/-! PROOFS. The CRC commands (41_crc.md R75 to R78). -/

namespace Sys2Proof.Machine
open Sys2Proof.Spec

/-! ### CRC_INIT -/

theorem decode_crcInit_iff (v : Word) : decode v = .ok .crcInit ↔ v = 0x00000001 :=
  decode_eq_ok_iff (i := .crcInit) (by decide)

theorem exec_crcInit {s : State} {l : Latch} (hl : s.latch = some l) :
    exec .crcInit s = .next (s.setCrc crcInitial).finish :=
  exec_of_body_ok hl rfl

/-- Settles O13: the word by `decode_crcInit_iff`, the effect by `exec_crcInit`. -/
theorem crcInitSetsTheInitialValue : Obligations.CrcInitSetsTheInitialValue :=
  ⟨decode_crcInit_iff, fun _ _ => exec_crcInit⟩

/-! ### CRC_UPDATE -/

/-- The lanes of R49 are the bytes of R12. -/
theorem lanes_eq_bytesOf (v : Word) (n : Nat) : lanes v n = bytesOf v n := rfl

theorem exec_crcUpdate {s : State} {l : Latch} (hl : s.latch = some l) (n : Nat) :
    exec (.crcUpdate n) s = .next (s.setCrc (crcBytes s.crc (bytesOf l.opnd n))).finish :=
  exec_of_body_ok hl rfl

/-- Settles O14: the words are those of an UPDATE command (`IsUpdate.decode_iff`, `IsUpdate.decode_unused`), and the
effect is `exec_crcUpdate`, whose bytes are the lanes. -/
theorem crcUpdateConsumesTheLanes : Obligations.CrcUpdateConsumesTheLanes := by
  refine ⟨isUpdate_crcUpdate.decode_iff, fun v => isUpdate_crcUpdate.decode_unused, fun s l n hl => ?_⟩
  rw [exec_crcUpdate hl, lanes_eq_bytesOf]
  rfl

/-! ### CRC_FINAL -/

@[simp] theorem crcSlice_false (v : Word) : crcSlice v false = v := rfl

@[simp] theorem crcSlice_true (v : Word) : crcSlice v true = (v >>> 16) &&& 0x00007FFF := rfl

theorem decode_crcFinal_iff (v : Word) : decode v = .ok .crcFinal ↔ v = 0x00000003 :=
  decode_eq_ok_iff (i := .crcFinal) (by decide)

theorem exec_crcFinal {s : State} {l : Latch} (hl : s.latch = some l) :
    exec .crcFinal s = .next ((s.setResult (crcSlice (~~~ s.crc) l.slice)).setCrc crcInitial).finish :=
  exec_of_body_ok hl rfl

/-- Settles O15: the word by `decode_crcFinal_iff`, the effect by `exec_crcFinal` at each setting of the latched
slice. -/
theorem crcFinalPublishesTheSlice : Obligations.CrcFinalPublishesTheSlice := by
  refine ⟨decode_crcFinal_iff, fun s l hl => ⟨fun hslice => ?whole, fun hslice => ?sliced⟩⟩
  case whole =>
    rw [exec_crcFinal hl, hslice, crcSlice_false]
    rfl
  case sliced =>
    rw [exec_crcFinal hl, hslice, crcSlice_true]
    rfl

end Sys2Proof.Machine
end

section
/-! PROOFS. RING_COMMIT and RING_LOOKUP (43_ring.md R96 to R98): their errors and effects, and what a lookup finds. -/

namespace Sys2Proof.Machine
open Sys2Proof.Spec

/-- A pending command whose family rule raises an error completes with the error recorded and nothing else
(60_exceptions.md R104). -/
theorem exec_of_body_error {s : State} {l : Latch} {i : Instr} {c : ErrCode} (hl : s.latch = some l)
    (hb : commandBody i s l = .error c) :
    exec i s = .next { s with error := s.error.or (some c), latch := none, done := true } := by
  rw [exec_eq_complete, complete_error hl hb, State.recordError_eq]
  rfl

/-! ### RING_COMMIT -/

theorem decode_ringCommit_iff (v : Word) : decode v = .ok .ringCommit ↔ v = 0x00000022 :=
  decode_eq_ok_iff (i := .ringCommit) (by decide)

theorem exec_ringCommit_ok {s : State} {l : Latch} (hl : s.latch = some l) (hr : s.rstate = .building)
    (hc : s.ringCount ≠ 0) : exec .ringCommit s = .next (s.setRstate .ready).finish :=
  exec_of_body_ok hl ((if_neg (not_not.2 hr)).trans (if_neg hc))

/-- Settles O30: each clause is one branch of the family rule, completed by `exec_of_body_error` or
`exec_ringCommit_ok`. -/
theorem ringCommitPublishes : Obligations.RingCommitPublishes := by
  refine ⟨decode_ringCommit_iff, fun s l hl => ⟨fun hr => ?state, fun hr hc => ?empty, exec_ringCommit_ok hl⟩⟩
  case state => exact exec_of_body_error hl (if_pos hr)
  case empty => exact exec_of_body_error hl ((if_neg (not_not.2 hr)).trans (if_pos hc))

/-! ### Select -/

/-- A valid index that hits, with none below it that does, is what `Select(q)` gives (43_ring.md R98). -/
theorem State.select_of_lowest_hit {s : State} {q : Word} {i : Nat} (hi : i < s.count)
    (hit : q ≤ (s.ringEntry i).point) (below : ∀ j, j < i → (s.ringEntry j).point < q) : s.select q = (i, false) := by
  obtain ⟨k, -, hitk, belowk, hsel⟩ | ⟨hnone, -⟩ := s.select_cases q
  · obtain hki | rfl | hik := lt_trichotomy k i
    · exact absurd (below k hki) (BitVec.not_lt.2 hitk)
    · exact hsel
    · exact absurd (belowk i hik) (BitVec.not_lt.2 hit)
  · exact absurd (hnone i hi) (BitVec.not_lt.2 hit)

theorem State.select_of_no_hit {s : State} {q : Word} (hnone : ∀ j, j < s.count → (s.ringEntry j).point < q) :
    s.select q = (0, true) := by
  obtain ⟨k, hk, hit, -, -⟩ | ⟨-, hsel⟩ := s.select_cases q
  · exact absurd (hnone k hk) (BitVec.not_lt.2 hit)
  · exact hsel

/-- `Select(q)` on a table with an entry gives a valid index, with WRAP or without. -/
theorem State.select_lt_count {s : State} (q : Word) (h : 0 < s.count) : (s.select q).1 < s.count := by
  obtain ⟨k, hk, -, -, hsel⟩ | ⟨-, hsel⟩ := s.select_cases q <;> rw [hsel]
  · exact hk
  · exact h

/-! ### RING_LOOKUP -/

theorem decode_ringLookup_iff (v : Word) (src : QuerySource) :
    decode v = .ok (.ringLookup src) ↔ v = encode (.ringLookup src) :=
  decode_eq_ok_iff (by cases src <;> decide)

theorem exec_ringLookup_ready {s : State} {l : Latch} (src : QuerySource) (hl : s.latch = some l)
    (hr : s.rstate = .ready) :
    exec (.ringLookup src) s = .next (s.setLookup (s.lookupOf (queryOf src l))).finish :=
  exec_of_body_ok hl (by simp only [commandBody, hr])

/-- A served lookup shows the entry that `Select` gives (43_ring.md R97). -/
theorem exec_ringLookup_of_select {s : State} {l : Latch} {src : QuerySource} {i : Nat} {wrap : Bool}
    (hl : s.latch = some l) (hr : s.rstate = .ready) (hsel : s.select (queryOf src l) = (i, wrap)) :
    exec (.ringLookup src) s = .next { s with
      lk := { wrap := wrap, index := BitVec.ofNat 16 i, point := (s.ringEntry i).point, node := (s.ringEntry i).node }
      latch := none
      done := true } := by
  rw [exec_ringLookup_ready src hl hr, State.lookupOf, hsel]
  rfl

/-- Settles O31: the errors are the branches of the family rule, and a served lookup shows what `Select` gives: the
lowest hit (`State.select_of_lowest_hit`), or index 0 with WRAP (`State.select_of_no_hit`). -/
theorem ringLookupSelectsTheLowestHit : Obligations.RingLookupSelectsTheLowestHit := by
  refine ⟨fun v => decode_ringLookup_iff v .data, fun v => decode_ringLookup_iff v .result, fun s l src hl => ?_⟩
  refine ⟨fun hr => ?empty, fun hr => ?building, fun i hr hi hit below => ?hit,
    fun hr _ hnone => ?wrap, fun hr => ?served⟩
  case empty => exact exec_of_body_error hl (by simp only [commandBody, hr])
  case building => exact exec_of_body_error hl (by simp only [commandBody, hr])
  case hit => exact exec_ringLookup_of_select hl hr (State.select_of_lowest_hit hi hit below)
  case wrap => exact exec_ringLookup_of_select hl hr (State.select_of_no_hit hnone)
  case served => exact ⟨_, exec_ringLookup_ready src hl hr, rfl⟩

/-! ### Coverage -/

/-- A valid index fits the 16 bits of LK_INDEX (10_state.md R31). -/
theorem State.Inv.index_toNat {s : State} (h : s.Inv) {i : Nat} (hi : i < s.count) : (BitVec.ofNat 16 i).toNat = i := by
  have hlegal := h.cfgLegal
  have hcount := h.countLe
  simp only [Config.legal, Bool.and_eq_true, decide_eq_true_eq] at hlegal
  exact Nat.mod_eq_of_lt (by omega)

/-- With one node in the list, every valid entry has node 0 (43_ring.md R102). -/
theorem State.Inv.node_eq_zero {s : State} (h : s.Inv) (hn : s.ringNodes = 1) {k : Nat} (hk : k < s.count) :
    (s.ringEntry k).node = 0 := by
  have hlt := hn ▸ h.ringNodeValid k hk
  bv_omega

/-- Settles O33: `Select` gives a valid index (`State.select_lt_count`), and the invariant says what a valid entry
holds. -/
theorem readyRingCoversEveryQuery : Obligations.ReadyRingCoversEveryQuery := by
  intro s l src hinv hr hl
  have hi : (s.select (queryOf src l)).1 < s.count := State.select_lt_count _ (hinv.readyHasEntry hr)
  refine ⟨_, exec_ringLookup_ready src hl hr, rfl, ?covered, fun hn => ?single⟩
  case covered => exact ⟨_, hi, hinv.index_toNat hi, rfl, rfl, hinv.ringNodeValid _ hi⟩
  case single => exact ⟨fun _ => hinv.node_eq_zero hn, hinv.node_eq_zero hn hi⟩

end Sys2Proof.Machine
end

section
/-! PROOFS. What a step can do to the ring's state (43_ring.md R93). -/

namespace Sys2Proof.Machine
open Sys2Proof.Spec

/-! ### Completion -/

/-- RING_BEGIN for at least one node (43_ring.md R94). -/
theorem exec_ringBegin_ok {s : State} {l : Latch} {n : Half} (hl : s.latch = some l) (hn : n ≠ 0) :
    exec (.ringBegin n) s = .next (((s.setRingNodes n).setRingCount 0).setRstate .building).finish :=
  exec_of_body_ok hl (if_neg hn)

/-- Everything a command that raises no error can do to the ring, its table and the lookup result: it is one of the four
ring commands, past its checks and with its effect (43_ring.md R94 to R97), or it leaves them. -/
theorem commandBody_ok_ring {i : Instr} {s u : State} {l : Latch} (h : commandBody i s l = .ok u) :
    (∃ n, i = .ringBegin n ∧ n ≠ 0 ∧ u = ((s.setRingNodes n).setRingCount 0).setRstate .building) ∨
    (∃ k, i = .ringAppend k ∧ s.rstate = .building ∧
      u = (s.setRingEntry s.count { point := l.opnd, node := k }).setRingCount (s.ringCount + 1) ∧
      s.count ≠ s.cfg.ringDepth ∧ k < s.ringNodes ∧ (0 < s.count → (s.ringEntry (s.count - 1)).point ≤ l.opnd)) ∨
    (i = .ringCommit ∧ s.rstate = .building ∧ s.ringCount ≠ 0 ∧ u = s.setRstate .ready) ∨
    (∃ src, i = .ringLookup src ∧ s.rstate = .ready ∧ u = s.setLookup (s.lookupOf (queryOf src l))) ∨
    (u.rstate = s.rstate ∧ u.ringCount = s.ringCount ∧ u.ringNodes = s.ringNodes ∧ u.ring = s.ring ∧ u.lk = s.lk) := by
  cases i with
  | ringBegin n =>
    simp only [commandBody] at h
    split at h; · cases h
    next hn => cases h; exact .inl ⟨n, rfl, hn, rfl⟩
  | ringAppend k =>
    simp only [commandBody] at h
    split at h; · cases h
    next hr =>
      split at h; · cases h
      next hfull =>
        split at h; · cases h
        next hnode =>
          split at h; · cases h
          next horder =>
            cases h
            exact .inr (.inl ⟨k, rfl, not_not.1 hr, rfl, hfull, BitVec.not_le.1 hnode,
              fun hpos => BitVec.not_lt.1 fun hlt => horder ⟨hpos, hlt⟩⟩)
  | ringCommit =>
    simp only [commandBody] at h
    split at h; · cases h
    next hr =>
      split at h; · cases h
      next hc => cases h; exact .inr (.inr (.inl ⟨rfl, not_not.1 hr, hc, rfl⟩))
  | ringLookup src =>
    simp only [commandBody] at h
    split at h
    · cases h
    · cases h
    next hr => cases h; exact .inr (.inr (.inr (.inl ⟨src, rfl, hr, rfl⟩)))
  | _ => cases h; exact .inr (.inr (.inr (.inr ⟨rfl, rfl, rfl, rfl, rfl⟩)))

theorem exec_rstate {i : Instr} {s t : State} (h : exec i s = .next t) :
    (∃ n, i = .ringBegin n ∧ n ≠ 0 ∧ t.rstate = .building) ∨
    (i = .ringCommit ∧ s.rstate = .building ∧ s.ringCount ≠ 0 ∧ t.rstate = .ready) ∨ t.rstate = s.rstate := by
  obtain ⟨l, -, ⟨u, hu, rfl⟩ | ⟨c, -, rfl⟩⟩ := exec_next h
  · obtain ⟨n, hi, hn, rfl⟩ | ⟨_, -, -, rfl, -⟩ | ⟨hi, hr, hc, rfl⟩ | ⟨_, -, -, rfl⟩ | ⟨hr, -⟩ := commandBody_ok_ring hu
    · exact .inl ⟨n, hi, hn, rfl⟩
    · exact .inr (.inr rfl)
    · exact .inr (.inl ⟨hi, hr, hc, rfl⟩)
    · exact .inr (.inr rfl)
    · exact .inr (.inr hr)
  · exact .inr (.inr (s.recordError_rstate c))

/-- Only a lookup of a READY ring writes LK_INDEX, LK_POINT and LK_NODE. -/
theorem exec_lk {i : Instr} {s t : State} (h : exec i s = .next t) : s.rstate = .ready ∨ t.lk = s.lk := by
  obtain ⟨l, -, ⟨u, hu, rfl⟩ | ⟨c, -, rfl⟩⟩ := exec_next h
  · obtain ⟨_, -, -, rfl⟩ | ⟨_, -, -, rfl, -⟩ | ⟨-, -, -, rfl⟩ | ⟨_, -, hr, -⟩ | ⟨-, -, -, -, hlk⟩ :=
      commandBody_ok_ring hu
    · exact .inr rfl
    · exact .inr rfl
    · exact .inr rfl
    · exact .inl hr
    · exact .inr hlk
  · exact .inr (s.recordError_lk c)

/-- Only an append to a ring being built writes the table. -/
theorem exec_ring {i : Instr} {s t : State} (h : exec i s = .next t) : s.rstate = .building ∨ t.ring = s.ring := by
  obtain ⟨l, -, ⟨u, hu, rfl⟩ | ⟨c, -, rfl⟩⟩ := exec_next h
  · obtain ⟨_, -, -, rfl⟩ | ⟨_, -, hr, -⟩ | ⟨-, hr, -, -⟩ | ⟨_, -, -, rfl⟩ | ⟨-, -, -, hring, -⟩ :=
      commandBody_ok_ring hu
    · exact .inr rfl
    · exact .inl hr
    · exact .inl hr
    · exact .inr rfl
    · exact .inr hring
  · exact .inr (s.recordError_ring c)

/-! ### Steps -/

theorem State.acceptCommand_rstate (s : State) (v : Word) : (s.acceptCommand v).rstate = s.rstate := by
  obtain ⟨_, -, h⟩ | ⟨-, -, h⟩ | ⟨-, -, h⟩ := s.acceptCommand_cases v <;> simp [h]

theorem State.writeReg_rstate (s : State) (r : Reg) (v : Word) : (s.writeReg r v).rstate = s.rstate := by
  obtain ⟨-, h⟩ | ⟨-, h⟩ | ⟨-, h⟩ | ⟨-, h⟩ | ⟨-, -, -, -, h⟩ := s.writeReg_cases r v <;> rw [h]
  · rfl
  · rw [State.writeStatus_eq]
  · exact s.acceptCommand_rstate v
  · rfl

theorem hostStep_rstate {a : Access} {s t : State} (h : hostStep a s = .next t) : t.rstate = s.rstate := by
  obtain ⟨_, _, _, -, -, rfl⟩ | ⟨_, _, v, r, -, -, rfl⟩ := hostStep_next h
  · rfl
  · exact s.writeReg_rstate r v

/-- The pending command moves RSTATE from `s` to `t`: the two rows of R93 that lead to another state under a command. -/
def CommandMovesRstate (s t : State) : Prop :=
  ∃ l, s.latch = some l ∧
    ((∃ n, decode l.word = .ok (.ringBegin n) ∧ n ≠ 0 ∧ t.rstate = .building) ∨
     (decode l.word = .ok .ringCommit ∧ s.rstate = .building ∧ 1 ≤ s.ringCount.toNat ∧ t.rstate = .ready))

theorem engineStep_rstate {s t : State} (h : engineStep s = .next t) :
    t.rstate = s.rstate ∨ CommandMovesRstate s t := by
  obtain ⟨-, rfl⟩ | ⟨l, i, hl, hd, hx⟩ := engineStep_next h
  · exact .inl rfl
  · obtain ⟨n, rfl, hn, ht⟩ | ⟨rfl, hr, hc, ht⟩ | ht := exec_rstate hx
    · exact .inr ⟨l, hl, .inl ⟨n, hd, hn, ht⟩⟩
    · exact .inr ⟨l, hl, .inr ⟨hd, hr, by bv_omega, ht⟩⟩
    · exact .inl ht

theorem step_rstate {s t : State} (h : step s = .next t) :
    t.rstate = s.rstate ∨ (resetTurn s ∧ t.rstate = .empty) ∨ (engineTurn s ∧ CommandMovesRstate s t) := by
  obtain ⟨hs, he⟩ | ⟨a, es, -, hh⟩ | ⟨es, hs, he⟩ | ⟨es, hs, rfl⟩ := step_next h
  · exact (engineStep_rstate he).imp_right fun hm => .inr ⟨.inl hs, hm⟩
  · exact .inl (hostStep_rstate (s := s.setScript es) hh)
  · exact (engineStep_rstate he).imp_right fun hm => .inr ⟨.inr ⟨es, hs⟩, hm⟩
  · exact .inr (.inl ⟨⟨es, hs⟩, rfl⟩)

/-- Settles O34: `step_rstate` names every step that moves RSTATE, `exec_lk` and `exec_ring` confine the lookups and the
appends to their states. -/
theorem ringStateMovesOnlyAsTheTable : Obligations.RingStateMovesOnlyAsTheTable := by
  refine ⟨fun _ _ => step_rstate, fun s l n hl hn => ?begin, fun s l hl hr hc => ?commit, fun s es hs => ?reset,
    fun _ _ _ h hne => (exec_lk h).resolve_right hne, fun _ _ _ h hne => (exec_ring h).resolve_right hne⟩
  case begin => exact ⟨_, exec_ringBegin_ok hl hn, rfl⟩
  case commit => exact ⟨_, exec_ringCommit_ok hl hr (by bv_omega), rfl⟩
  case reset => exact ⟨_, step_reset hs, rfl⟩

end Sys2Proof.Machine
end

section
/-! PROOFS. The recorded error along a step and along a completion (60_exceptions.md R107). -/

namespace Sys2Proof.Machine
open Sys2Proof.Spec

/-! ### The family rules and CTRL, ERR and ERRCODE -/

/-- A family rule takes no notice of CTRL (CRC_FINAL has its slice from the latch) and of the recorded error, and leaves
both. -/
theorem commandBody_ctrl_error (i : Instr) (s : State) (l : Latch) (k : Ctrl) (e : Option ErrCode) :
    commandBody i { s with ctrl := k, error := e } l =
      (commandBody i s l).map fun u => { u with ctrl := k, error := e } := by
  cases i with
  | ringBegin | ringAppend | ringCommit => simp only [commandBody, apply_ite (Except.map _)]; rfl
  | ringLookup => simp only [commandBody]; split <;> rfl
  | _ => rfl

theorem commandBody_ok_ctrl {i : Instr} {s u : State} {l : Latch} (h : commandBody i s l = .ok u) :
    u.ctrl = s.ctrl := by
  have hself := commandBody_ctrl_error i s l s.ctrl s.error
  rw [h] at hself
  exact (congrArg State.ctrl (Except.ok.inj hself) :)

theorem commandBody_withError (i : Instr) (s : State) (l : Latch) (e : Option ErrCode) :
    commandBody i { s with error := e } l = (commandBody i s l).map fun u => { u with error := e } := by
  refine (commandBody_ctrl_error i s l s.ctrl e).trans ?_
  cases h : commandBody i s l with
  | ok u => rw [← commandBody_ok_ctrl h]; rfl
  | error c => rfl

/-! ### Completion -/

/-- A recorded error does not block a command, and the command keeps it: the completion is the same but for it. -/
theorem exec_withError {i : Instr} {s t : State} (c : ErrCode) (h : exec i s = .next t) :
    exec i { s with error := some c } = .next { t with error := some c } := by
  obtain ⟨l, hl, ⟨u, hu, rfl⟩ | ⟨c', hc, rfl⟩⟩ := exec_next h
  · exact exec_of_body_ok (s := { s with error := some c }) hl (by rw [commandBody_withError, hu]; rfl)
  · rw [exec_of_body_error (s := { s with error := some c }) hl (by rw [commandBody_withError, hc]; rfl),
      State.recordError_eq]
    rfl

theorem exec_keeps_error {i : Instr} {s t : State} {c : ErrCode} (hs : s.error = some c) (h : exec i s = .next t) :
    t.error = some c := by
  have hsame := exec_withError c h
  rw [← hs, h, hs] at hsame
  exact congrArg State.error (Host.Outcome.next.inj hsame)

theorem engineStep_keeps_error {s t : State} {c : ErrCode} (hs : s.error = some c) (h : engineStep s = .next t) :
    t.error = some c := by
  obtain ⟨-, rfl⟩ | ⟨_, _, -, -, hx⟩ := engineStep_next h
  · exact hs
  · exact exec_keeps_error hs hx

/-! ### Host writes and steps -/

theorem State.acceptCommand_keeps_error {s : State} {c : ErrCode} (hs : s.error = some c) (v : Word) :
    (s.acceptCommand v).error = some c := by
  obtain ⟨_, -, h⟩ | ⟨-, -, h⟩ | ⟨-, -, h⟩ := s.acceptCommand_cases v <;> simp [h, hs]

/-- A register write keeps a recorded error, unless it is the W1C write of STATUS with bit 2 set. -/
theorem State.writeReg_error_cases {s : State} {c : ErrCode} (hs : s.error = some c) (r : Reg) (v : Word) :
    (s.writeReg r v).error = some c ∨
    (r = .status ∧ v.getLsbD 2 = true ∧ (s.writeReg r v).error = none) := by
  obtain ⟨-, h⟩ | ⟨hr, h⟩ | ⟨-, h⟩ | ⟨-, h⟩ | ⟨-, -, -, -, h⟩ := s.writeReg_cases r v <;> rw [h]
  · exact .inl hs
  · rw [State.writeStatus_eq]
    cases hv : v.getLsbD 2 with
    | true => exact .inr ⟨hr, rfl, rfl⟩
    | false => exact .inl hs
  · exact .inl (State.acceptCommand_keeps_error hs v)
  · exact .inl hs
  · exact .inl hs

theorem step_keeps_error {s t : State} {c : ErrCode} (hs : s.error = some c) (h : step s = .next t) :
    t.error = some c ∨ (t.error = none ∧ (resetTurn s ∨ ∃ v, writeTurn s 0x0C v ∧ v.getLsbD 2 = true)) := by
  obtain ⟨-, he⟩ | ⟨a, es, hscript, hh⟩ | ⟨es, -, he⟩ | ⟨es, hscript, rfl⟩ := step_next h
  · exact .inl (engineStep_keeps_error hs he)
  · obtain ⟨_, _, _, rfl, -, rfl⟩ | ⟨addr, w, v, r, rfl, ht, rfl⟩ := hostStep_next hh
    · exact .inl hs
    · obtain hkept | ⟨rfl, hv, hnone⟩ := State.writeReg_error_cases (s := s.setScript es) hs r v
      · exact .inl hkept
      · exact .inr ⟨hnone, .inr ⟨v, writeTurn_of_target hscript ht @Reg.ofSlot_status, hv⟩⟩
  · exact .inl (engineStep_keeps_error (s := s.setScript es) hs he)
  · exact .inr ⟨rfl, .inl ⟨es, hscript⟩⟩

/-- Settles O38: `step_keeps_error` names the two ways to lose an error, `exec_withError` compares the completions, and
acceptance does not look at the error. -/
theorem firstErrorStaysAndDoesNotBlock : Obligations.FirstErrorStaysAndDoesNotBlock := by
  refine ⟨fun _ _ _ => step_keeps_error, fun _ _ _ c => exec_withError c, ?_⟩
  rintro s c v i hs hl hd ⟨es, hscript⟩
  refine ⟨_, step_write_cmd hscript, ?_⟩
  rw [State.acceptCommand_legal (s := s.setScript es) hl hd]
  exact ⟨hs, rfl⟩

end Sys2Proof.Machine
end

section
/-! PROOFS. `irq` (60_exceptions.md R109): its value from the registers, and what a completion and a write make it. -/

namespace Sys2Proof.Machine
open Sys2Proof.Spec

/-! ### `irq` from the registers -/

theorem State.ctrlWord_irqen (s : State) : s.ctrlWord.getLsbD 1 = s.ctrl.irqen := by
  unfold State.ctrlWord
  simp only [BitVec.getLsbD_append]
  simp

theorem State.statusWord_done (s : State) : s.statusWord.getLsbD 1 = s.done := by
  unfold State.statusWord
  simp only [BitVec.getLsbD_append]
  simp

theorem State.irq_of_done {s : State} (h : s.done = true) : s.irq = s.ctrl.irqen := by
  simp [State.irq, h]

theorem State.irq_of_error {s : State} (h : s.error.isSome = true) : s.irq = s.ctrl.irqen := by
  simp [State.irq, State.err, h]

/-! ### What moves it -/

/-- A command leaves CTRL. -/
theorem exec_ctrl {i : Instr} {s t : State} (h : exec i s = .next t) : t.ctrl = s.ctrl := by
  obtain ⟨l, -, ⟨u, hu, rfl⟩ | ⟨c, -, rfl⟩⟩ := exec_next h
  · exact u.finish_ctrl.trans (commandBody_ok_ctrl hu)
  · exact (s.recordError c).finish_ctrl.trans (s.recordError_ctrl c)

theorem State.acceptCommand_ctrl (s : State) (v : Word) : (s.acceptCommand v).ctrl = s.ctrl := by
  obtain ⟨_, -, h⟩ | ⟨-, -, h⟩ | ⟨-, -, h⟩ := s.acceptCommand_cases v <;> simp [h]

/-- A BUSY rejection leaves an error recorded, this one or an earlier one (60_exceptions.md R105, R107). -/
theorem State.acceptCommand_busy_error {s : State} (v : Word) (hl : s.latch.isSome = true) :
    (s.acceptCommand v).error.isSome = true := by
  simp [State.acceptCommand_busy v hl]

theorem State.writeStatus_irq (s : State) (v : Word) :
    (s.writeStatus v).irq = (s.ctrl.irqen && ((s.done && !v.getLsbD 1) || (s.error.isSome && !v.getLsbD 2))) := by
  rw [State.writeStatus_eq]
  cases hv : v.getLsbD 2 <;> simp [State.irq, State.err]

/-- After the step of a host write, `irq` is what the register write makes it. -/
theorem step_writeTurn_irq {s t : State} {slot : Nat} {v : Word} (hslot : slot < 32) (hw : writeTurn s (4 * slot) v)
    (h : step s = .next t) : t.irq = (s.writeReg (Reg.ofSlot slot) v).irq := by
  obtain ⟨es, hstep⟩ := step_writeTurn hslot hw
  obtain rfl : _ = t := Host.Outcome.next.inj (hstep.symm.trans h)
  rfl

/-- Settles O41: after a completion or an illegal word DONE is set, and after a BUSY rejection ERR, so `irq` is IRQEN;
the writes of CTRL and STATUS put their own values into R109. -/
theorem irqFollowsDoneErrAndEnable : Obligations.IrqFollowsDoneErrAndEnable := by
  refine ⟨fun s => ?registers, fun s t i h => ?completion, fun s v e hl hw hd => ?illegal, fun s l v hl hw => ?busy,
    fun s t v hw h => ?ctrl, fun s t v hw h => ?status⟩
  case registers =>
    simp only [State.readReg, State.ctrlWord_irqen, State.statusWord_done, State.statusWord_err, State.irq]
  case completion => rw [State.irq_of_done (exec_done h), exec_ctrl h]
  case illegal =>
    obtain ⟨es, hstep⟩ := step_writeTurn (slot := 4) (by decide) hw
    refine ⟨_, hstep, ?_⟩
    exact (State.irq_of_done (State.acceptCommand_illegal_done hl hd)).trans (congrArg _ (s.acceptCommand_ctrl v))
  case busy =>
    obtain ⟨es, hstep⟩ := step_writeTurn (slot := 4) (by decide) hw
    refine ⟨_, hstep, ?_⟩
    exact (State.irq_of_error (State.acceptCommand_busy_error v (by simp [hl]))).trans
      (congrArg _ (s.acceptCommand_ctrl v))
  case ctrl => exact step_writeTurn_irq (slot := 2) (by decide) hw h
  case status => exact (step_writeTurn_irq (slot := 3) (by decide) hw h).trans (s.writeStatus_irq v)

end Sys2Proof.Machine
end

section
/-! PROOFS. Host writes of DATA_IN, CTRL and STATUS beside a pending command (70_reset_and_hazards.md R124), and the
reset step (R118). -/

namespace Sys2Proof.Machine
open Sys2Proof.Spec

/-! ### The error a family rule raises -/

/-- The family rules make the checks of 60_exceptions.md R103 in the order of R108, and raise no other error. -/
theorem commandBody_error_iff {i : Instr} {s : State} {l : Latch} {c : ErrCode} :
    commandBody i s l = .error c ↔ raises s l i = some c := by
  cases i with
  | ringBegin n =>
    simp only [commandBody, raises]
    split <;> simp
  | ringAppend k =>
    simp only [commandBody, raises, appendError, State.count, BitVec.le_def, BitVec.lt_def]
    split_ifs <;> simp
  | ringCommit =>
    have hzero : s.ringCount = 0 ↔ s.ringCount.toNat = 0 := BitVec.toNat_eq
    simp only [commandBody, raises, commitError, hzero]
    split_ifs <;> simp
  | ringLookup src =>
    simp only [commandBody, raises, lookupError]
    cases s.rstate <;> simp
  | _ => simp [commandBody, raises]

theorem raises_eq_none_of_body_ok {i : Instr} {s u : State} {l : Latch} (h : commandBody i s l = .ok u) :
    raises s l i = none :=
  Option.eq_none_iff_forall_ne_some.2 fun _ hc => nomatch h.symm.trans (commandBody_error_iff.2 hc)

/-! ### The fields that a write of DATA_IN, CTRL or STATUS reaches -/

/-- `s` with DATA_IN, CTRL, DONE and the recorded error of `w`. -/
def State.withHostFields (s w : State) : State :=
  { s with dataIn := w.dataIn, ctrl := w.ctrl, done := w.done, error := w.error }

theorem State.writeReg_eq_withHostFields (s : State) {r : Reg} (v : Word) (hr : r ∈ [.dataIn, .ctrl, .status]) :
    s.writeReg r v = s.withHostFields (s.writeReg r v) := by
  obtain rfl | rfl | rfl : r = .dataIn ∨ r = .ctrl ∨ r = .status := by simpa using hr
  · rfl
  · rfl
  · exact (s.writeStatus_eq v).trans (congrArg s.withHostFields (s.writeStatus_eq v)).symm

theorem State.writeReg_error_of_ne_status (s : State) {r : Reg} (v : Word) (hr : r ∈ [.dataIn, .ctrl, .status])
    (hne : r ≠ .status) : (s.writeReg r v).error = s.error := by
  obtain rfl | rfl : r = .dataIn ∨ r = .ctrl := by simpa [hne] using hr
  · rfl
  · rfl

/-- A family rule has its operands from the latch (30_encoding.md R63): it takes no notice of these fields and leaves
them. -/
theorem commandBody_withHostFields (i : Instr) (s w : State) (l : Latch) :
    commandBody i (s.withHostFields w) l = (commandBody i s l).map fun u => u.withHostFields w := by
  cases i with
  | ringBegin | ringAppend | ringCommit => simp only [commandBody, apply_ite (Except.map _)]; rfl
  | ringLookup => simp only [commandBody, State.withHostFields]; split <;> rfl
  | _ => rfl

/-- A pending command completes the same whatever these fields hold: DATA_IN and CTRL stay, and its error is recorded
unless one is already. -/
theorem exec_withHostFields {i : Instr} {s t : State} {l : Latch} (w : State) (hl : s.latch = some l)
    (h : exec i s = .next t) :
    exec i (s.withHostFields w) =
      .next { t with dataIn := w.dataIn, ctrl := w.ctrl, error := w.error.or (raises s l i) } := by
  cases hb : commandBody i s l with
  | ok u =>
    obtain rfl : u.finish = t := Host.Outcome.next.inj ((exec_of_body_ok hl hb).symm.trans h)
    rw [exec_of_body_ok (s := s.withHostFields w) (t := u.withHostFields w) hl
      (by rw [commandBody_withHostFields, hb]; rfl), raises_eq_none_of_body_ok hb, Option.or_none]
    rfl
  | error c =>
    obtain rfl := Host.Outcome.next.inj ((exec_of_body_error hl hb).symm.trans h)
    rw [exec_of_body_error (s := s.withHostFields w) (c := c) hl
      (by rw [commandBody_withHostFields, hb]; rfl), commandBody_error_iff.1 hb]
    rfl

/-- The recorded error after a completion: the earlier one, or else the one the command raises (60_exceptions.md R104,
R107). -/
theorem exec_error {i : Instr} {s t : State} {l : Latch} (hl : s.latch = some l) (h : exec i s = .next t) :
    t.error = s.error.or (raises s l i) :=
  congrArg State.error (Host.Outcome.next.inj (h.symm.trans (exec_withHostFields s hl h)))

/-- Settles O44: the write changes only fields that `exec_withHostFields` lets vary, and `exec_error` gives the error of
the completion without the write. -/
theorem pendingCommandIgnoresHostWrites : Obligations.PendingCommandIgnoresHostWrites := by
  intro s t l i r v hr hl h
  refine ⟨?_, exec_error hl h, s.writeReg_error_of_ne_status v hr⟩
  exact (congrArg (exec i) (s.writeReg_eq_withHostFields v hr)).trans (exec_withHostFields _ hl h)

/-! ### Reset -/

/-- Reset gives every register and engine its value of R118, whatever it held. -/
theorem State.applyReset_atReset (s : State) : AtReset s.applyReset := by
  refine ⟨rfl, rfl, rfl, rfl, rfl, rfl, rfl, rfl, rfl, rfl, rfl, rfl, rfl, rfl, rfl, rfl, rfl, ?status, ?ctrl, rfl⟩
  case status => simp [State.statusWord, State.errcode, State.err, State.busy, RState.code]
  case ctrl => simp [State.ctrlWord]

/-- Settles O47: the step is `State.applyReset`, which keeps RING_DEPTH, so CAP, and the rest of the schedule. -/
theorem resetStepRestoresEveryRegister : Obligations.ResetStepRestoresEveryRegister := by
  intro s es hs
  exact ⟨_, step_reset hs, State.applyReset_atReset _, rfl, rfl, rfl⟩

end Sys2Proof.Machine
end

section
/-! PROOFS. The command words (30_encoding.md R59 to R66): every well-formed instruction is read back from its own word,
every decoded word is well formed, and the illegal words are those of R65. -/

namespace Sys2Proof
open Sys2Proof.Spec

/-! ### A well-formed instruction is read back -/

theorem isUpdate_md5Update : IsUpdate .md5Update 0x00000011 where
  row := by simp [opcodeTable]
  encode_eq _ := rfl
  injective _ _ := Instr.md5Update.inj
  nm1 := by decide
  unused := by decide

/-- The word of an UPDATE command with an encodable byte count is the command's own. -/
theorem IsUpdate.decode_encode {mk : Nat → Instr} {b : Word} (h : IsUpdate mk b) {n : Nat} (hn : byteCountOk n = true) :
    decode (encode (mk n)) = .ok (mk n) := by
  obtain ⟨h1, h4⟩ : 1 ≤ n ∧ n ≤ 4 := by simpa [byteCountOk] using hn
  rw [h.encode_eq]
  exact (h.decode_iff _ n).2 ⟨h1, h4, by rw [placeByteCount_eq h4]⟩

/-- A row with an IMM16 operand reads it back, whatever it is (30_encoding.md R62). -/
theorem decode_placeImm16 {mk : Half → Instr} {b : Word}
    (hrow : (⟨0x0000FFFF, b, fun v => mk (fieldImm16 v)⟩ : OpcodeRow) ∈ opcodeTable) (hlow : b &&& 0x0000FFFF = b)
    (hhigh : b.extractLsb' 16 16 = 0) (k : Half) : decode (b ||| placeImm16 k) = .ok (mk k) := by
  have hhit : (b ||| placeImm16 k) &&& 0x0000FFFF = b := (Laws.EncodeInRow.imm_hits b k).trans hlow
  exact (decode_of_hit hrow hhit).trans (by simp only [fieldImm16_placeImm16 b k hhigh])

theorem decode_encode {i : Instr} (h : i.wellFormed = true) : decode (encode i) = .ok i := by
  cases i with
  | crcUpdate n => exact isUpdate_crcUpdate.decode_encode h
  | md5Update n => exact isUpdate_md5Update.decode_encode h
  | ringBegin n =>
    exact decode_placeImm16 (mk := .ringBegin) (b := 0x00000020) (by simp [opcodeTable]) (by decide) (by decide) n
  | ringAppend k =>
    exact decode_placeImm16 (mk := .ringAppend) (b := 0x00000021) (by simp [opcodeTable]) (by decide) (by decide) k
  | ringLookup src => cases src <;> decide
  | nop | crcInit | crcFinal | md5Init | md5Final | ringCommit => decide

/-- Settles O1: the rows with an operand by `IsUpdate.decode_encode` and `decode_placeImm16`, the others by their one
word. -/
theorem decodeOfEncode : Obligations.DecodeOfEncode := fun _ => decode_encode

/-! ### What decodes is well formed -/

theorem wellFormed_instr {r : OpcodeRow} (hr : r ∈ opcodeTable) (v : Word) : (r.instr v).wellFormed = true := by
  have hcount : byteCountOk (byteCount v) = true := by simpa [byteCountOk] using byteCount_le v
  simp only [opcodeTable, List.mem_cons, List.not_mem_nil, or_false] at hr
  obtain rfl | rfl | rfl | rfl | rfl | rfl | rfl | rfl | rfl | rfl | rfl := hr <;> simp only [Instr.wellFormed, hcount]

theorem wellFormed_of_decode {v : Word} {i : Instr} (h : decode v = .ok i) : i.wellFormed = true := by
  obtain ⟨r, hr, -, rfl⟩ := decode_ok_row h
  exact wellFormed_instr hr v

/-- Settles O2: no bit is dropped (`encode_of_decode`), and every row gives well-formed operands. -/
theorem encodeOfDecode : Obligations.EncodeOfDecode := fun _ _ h => ⟨encode_of_decode h, wellFormed_of_decode h⟩

/-! ### The two kinds of illegal word -/

theorem assignedOps_eq : assignedOps = opcodeTable.map fun r => fieldOp r.bits := by decide

/-- A row's mask is OP and the bits outside the command's fields (30_encoding.md R65, R66), and its word is OP alone. -/
theorem opcodeTable_mask : ∀ r ∈ opcodeTable,
    r.mask = 0xFF ||| ~~~ usedBits (fieldOp r.bits) ∧ 0xFF &&& ~~~ usedBits (fieldOp r.bits) = 0#32 ∧
      r.bits = (fieldOp r.bits).setWidth 32 := by
  decide

theorem and_opMask (v : Word) : v &&& 0xFF = (fieldOp v).setWidth 32 := by
  apply BitVec.eq_of_toNat_eq
  simp only [fieldOp, BitVec.toNat_and, BitVec.toNat_setWidth, BitVec.extractLsb'_toNat]
  exact (Nat.and_two_pow_sub_one_eq_mod v.toNat 8).trans (by simp only [Nat.shiftRight_zero]; omega)

/-- A word with a row's OP matches the row exactly if it sets no bit outside the command's fields. -/
theorem hit_iff_no_unused_bit {r : OpcodeRow} (hr : r ∈ opcodeTable) {v : Word} (hop : fieldOp r.bits = fieldOp v) :
    v &&& r.mask = r.bits ↔ v &&& ~~~ usedBits (fieldOp v) = 0#32 := by
  obtain ⟨hmask, hfree, hbits⟩ := opcodeTable_mask r hr
  rw [hop] at hmask hfree hbits
  have hsplit : v &&& r.mask = r.bits ||| (v &&& ~~~ usedBits (fieldOp v)) := by
    rw [hmask, BitVec.and_or_distrib_left, and_opMask, ← hbits]
  constructor
  · intro h
    calc v &&& ~~~ usedBits (fieldOp v)
        = (v &&& r.mask) &&& ~~~ usedBits (fieldOp v) := by
          rw [BitVec.and_assoc, hmask, BitVec.and_or_distrib_right, hfree, BitVec.zero_or, BitVec.and_self]
      _ = (v &&& 0xFF) &&& ~~~ usedBits (fieldOp v) := by rw [h, hbits, and_opMask]
      _ = 0#32 := by rw [BitVec.and_assoc, hfree, BitVec.and_zero]
  · intro h
    rw [hsplit, h, BitVec.or_zero]

theorem mem_assignedOps_iff (op : Byte) : op ∈ assignedOps ↔ ∃ r ∈ opcodeTable, fieldOp r.bits = op := by
  rw [assignedOps_eq, List.mem_map]

/-- Settles O4: a word that decodes has an assigned OP and no unused bit, a word that does not with an assigned OP
matches no row for an unused bit (`hit_iff_no_unused_bit`). -/
theorem illegalWordsAreTheTwoCases : Obligations.IllegalWordsAreTheTwoCases := by
  intro v
  change (_ ↔ fieldOp v ∉ assignedOps) ∧ (_ ↔ fieldOp v ∈ assignedOps ∧ v &&& ~~~ usedBits (fieldOp v) ≠ 0)
  rw [mem_assignedOps_iff]
  cases hd : decode v with
  | ok i =>
    obtain ⟨r, hr, hhit, -⟩ := decode_ok_row hd
    have hop := fieldOp_of_hit hr hhit
    have hused := (hit_iff_no_unused_bit hr hop).1 hhit
    exact ⟨iff_of_false (by simp) fun h => h ⟨r, hr, hop⟩, iff_of_false (by simp) fun h => h.2 hused⟩
  | error e =>
    have hunused : (∃ r ∈ opcodeTable, fieldOp r.bits = fieldOp v) → v &&& ~~~ usedBits (fieldOp v) ≠ 0 :=
      fun ⟨r, hr, hop⟩ hzero => decode_error_row hd r hr ((hit_iff_no_unused_bit hr hop).2 hzero)
    have hassigned := decode_error_unusedBitSet_iff hd
    simp only [Except.error.injEq]
    refine ⟨?_, hassigned.trans (and_iff_left_of_imp hunused).symm⟩
    rw [← hassigned]
    cases e <;> simp

/-- Settles O5: each word is decoded by running the decoder on it. -/
theorem sampleWordsDecode : Obligations.SampleWordsDecode := by
  refine ⟨?_, ?_, ?_, ?_, ?_, ?_, ?_, ?_⟩ <;> decide

end Sys2Proof
end

section
/-! PROOFS. Single steps (00_scope.md R5): the engine's turn, the latch from acceptance to completion, and what a host
access leaves as it was. -/

namespace Sys2Proof.Machine
open Sys2Proof.Spec

/-! ### The engine's turn -/

/-- Settles O6: with the schedule at its end or the engine at its head, the step is the engine's, which runs the decoded
command (`engineStep_pending`). -/
theorem stepRunsThePendingCommand : Obligations.StepRunsThePendingCommand := by
  intro s l i hl hd
  refine ⟨fun hs => ?_, fun es hs => ?_⟩
  · rw [step_empty hs, engineStep_pending hl hd]
  · rw [step_engine hs, engineStep_pending (s := s.setScript es) hl hd]

theorem tableWord_toNat (v : Word) : tableWord 32 v.toNat = v := by
  rw [tableWord, Nat.mod_eq_of_lt v.isLt, BitVec.ofNat_toNat, BitVec.setWidth_eq]

/-- Settles O7: the placed word is the command's own (`decode_encode`), and the engine's turn is at the head. -/
theorem placedWordRunsNext : Obligations.PlacedWordRunsNext := by
  intro s i hi
  rw [State.withFetchWord, tableWord_toNat, State.placeCommand, step_engine rfl]
  exact engineStep_pending rfl (decode_encode hi)

/-- Settles O11: the engine passes its turn (`engineStep_idle`). -/
theorem idleStaysAsItIs : Obligations.IdleStaysAsItIs := by
  intro s hl
  refine ⟨fun hs => ?_, fun es hs => ?_⟩
  · rw [step_empty hs, engineStep_idle hl]
  · rw [step_engine hs, engineStep_idle (s := s.setScript es) hl]
    rfl

/-! ### What a host access leaves -/

/-- A register write reaches DATA_IN, CTRL, DONE, the recorded error and the latch (20_memory.md R48). -/
theorem State.writeReg_eq (s : State) (r : Reg) (v : Word) :
    s.writeReg r v = { s with
      ctrl := (s.writeReg r v).ctrl, done := (s.writeReg r v).done, error := (s.writeReg r v).error
      dataIn := (s.writeReg r v).dataIn, latch := (s.writeReg r v).latch } := by
  obtain ⟨-, h⟩ | ⟨-, h⟩ | ⟨-, h⟩ | ⟨-, h⟩ | ⟨-, -, -, -, h⟩ := s.writeReg_cases r v <;> rw [h]
  · rfl
  · rw [State.writeStatus_eq]
  · obtain ⟨_, -, ha⟩ | ⟨-, -, ha⟩ | ⟨-, -, ha⟩ := s.acceptCommand_cases v <;> rw [ha]
    · rw [State.recordError_eq]
    · rw [State.recordError_eq]; rfl
    · rfl
  · rfl

/-- A host access leaves everything else too, but for the value read (20_memory.md R47, R48). -/
theorem hostStep_eq {a : Access} {s t : State} (h : hostStep a s = .next t) :
    t = { s with
      ctrl := t.ctrl, done := t.done, error := t.error, dataIn := t.dataIn, latch := t.latch, rdata := t.rdata } := by
  obtain ⟨_, _, r, -, -, rfl⟩ | ⟨_, _, v, r, -, -, rfl⟩ := hostStep_next h
  · rfl
  · have hw := s.writeReg_eq r v
    rw [hw]

/-- Settles O45: the fields and the memories named are among those that `hostStep_eq` keeps. -/
theorem resultsAppearOnlyAtCompletion : Obligations.ResultsAppearOnlyAtCompletion := by
  intro s t a es hs h
  rw [step_host hs] at h
  rw [hostStep_eq h]
  exact ⟨rfl, rfl, rfl, rfl, rfl, rfl, rfl, rfl, rfl, rfl, fun _ => rfl, fun _ => rfl⟩

/-! ### The latch -/

theorem exec_latch {i : Instr} {s t : State} (h : exec i s = .next t) : t.latch = none := by
  obtain ⟨l, -, ⟨u, -, rfl⟩ | ⟨c, -, rfl⟩⟩ := exec_next h
  · exact u.finish_latch
  · exact (s.recordError c).finish_latch

theorem engineStep_latch {s t : State} (h : engineStep s = .next t) : t.latch = none := by
  obtain ⟨hl, rfl⟩ | ⟨_, _, -, -, hx⟩ := engineStep_next h
  · exact hl
  · exact exec_latch hx

/-- A register write leaves the latch, unless it is the acceptance of a CMD write. -/
theorem State.writeReg_latch_cases (s : State) (r : Reg) (v : Word) :
    (s.writeReg r v).latch = s.latch ∨
    (r = .cmd ∧ s.latch = none ∧ (∃ i, decode v = .ok i) ∧ (s.writeReg r v).latch = some (s.latchOf v)) := by
  obtain ⟨-, h⟩ | ⟨-, h⟩ | ⟨hr, h⟩ | ⟨-, h⟩ | ⟨-, -, -, -, h⟩ := s.writeReg_cases r v <;> rw [h]
  · exact .inl rfl
  · exact .inl (by rw [State.writeStatus_eq])
  · obtain ⟨_, -, ha⟩ | ⟨-, -, ha⟩ | ⟨hl, hi, ha⟩ := s.acceptCommand_cases v <;> rw [ha]
    · exact .inl (s.recordError_latch _)
    · exact .inl (s.recordError_latch _)
    · exact .inr ⟨hr, hl, hi, rfl⟩
  · exact .inl rfl
  · exact .inl rfl

/-- Everything a step can do to the latch: the engine's turn and a reset leave it empty, and a host access leaves it as
it was or accepts a command into it. -/
theorem step_latch {s t : State} (h : step s = .next t) :
    ((engineTurn s ∨ resetTurn s) ∧ t.latch = none) ∨
    ((∃ a es, s.script = .host a :: es) ∧
      (t.latch = s.latch ∨
       s.latch = none ∧ ∃ v i, writeTurn s 0x10 v ∧ decode v = .ok i ∧ t.latch = some (s.latchOf v))) := by
  obtain ⟨hs, he⟩ | ⟨a, es, hs, hh⟩ | ⟨es, hs, he⟩ | ⟨es, hs, rfl⟩ := step_next h
  · exact .inl ⟨.inl (.inl hs), engineStep_latch he⟩
  · refine .inr ⟨⟨a, es, hs⟩, ?_⟩
    obtain ⟨_, _, _, -, -, rfl⟩ | ⟨addr, w, v, r, rfl, ht, rfl⟩ := hostStep_next hh
    · exact .inl rfl
    · obtain hkept | ⟨rfl, hl, ⟨i, hi⟩, hnew⟩ := (s.setScript es).writeReg_latch_cases r v
      · exact .inl hkept
      · exact .inr ⟨hl, v, i, writeTurn_of_target hs ht @Reg.ofSlot_cmd, hi, hnew⟩
  · exact .inl ⟨.inl (.inr ⟨es, hs⟩), engineStep_latch he⟩
  · exact .inl ⟨.inr ⟨es, hs⟩, rfl⟩

/-- With a host access at its head, the schedule gives neither the engine its turn nor a reset. -/
theorem not_engineTurn_of_host {s : State} {a : Access} {es : List PortEvent} (hs : s.script = .host a :: es) :
    ¬ engineTurn s ∧ ¬ resetTurn s := by
  simp [engineTurn, resetTurn, hs]

/-- Settles O40: both clauses are read off `step_latch`. -/
theorem pendingFromAcceptanceToCompletion : Obligations.PendingFromAcceptanceToCompletion := by
  refine ⟨fun s t l hl h => ?kept, fun s t l hl h ht => ?latched⟩
  case kept =>
    obtain ⟨hturn, hnone⟩ | ⟨⟨a, es, hs⟩, hkept | ⟨hidle, -⟩⟩ := step_latch h
    · exact .inr ⟨hnone, hturn⟩
    · exact .inl ⟨hkept.trans hl, not_engineTurn_of_host hs⟩
    · simp [hl] at hidle
  case latched =>
    obtain ⟨-, hnone⟩ | ⟨-, hkept | ⟨-, v, i, hw, hd, hnew⟩⟩ := step_latch h
    · simp [ht] at hnone
    · simp [ht, hl] at hkept
    · exact ⟨v, i, hw, hd, Option.some.inj (ht.symm.trans hnew)⟩

end Sys2Proof.Machine
end

section
/-! PROOFS. Completion (60_exceptions.md R104): the effect of a command that raises no error is `Spec.effect`, and what
that leaves as it was. -/

namespace Sys2Proof.Machine
open Sys2Proof.Spec

/-! ### The digest as words -/

/-- The first word of a digest is the first chaining word (42_md5.md R86, R88). -/
theorem digestWord_chainBytes_zero (h : Chain) : digestWord (chainBytes h) 0 = h.a := le32_lanes h.a

/-- The four words of a digest are the four chaining words (10_state.md R34, 42_md5.md R86). -/
theorem digestOf_chainBytes (h : Chain) : digestOf (chainBytes h) = { d0 := h.a, d1 := h.b, d2 := h.c, d3 := h.d } := by
  have hb : digestWord (chainBytes h) 1 = h.b := le32_lanes h.b
  have hc : digestWord (chainBytes h) 2 = h.c := le32_lanes h.c
  have hd : digestWord (chainBytes h) 3 = h.d := le32_lanes h.d
  rw [digestOf, digestWord_chainBytes_zero, hb, hc, hd]

theorem chainBytes_length (h : Chain) : (chainBytes h).length = 16 := rfl

/-- Settles O24: the lanes of a word put together again are the word (`le32_lanes`). -/
theorem digestWordsAreTheChainingWords : Obligations.DigestWordsAreTheChainingWords := by
  refine ⟨fun h => ⟨digestOf_chainBytes h, chainBytes_length h⟩, fun k => ?_⟩
  rw [md5Hash, md5Of, digestWord_chainBytes_zero]

/-! ### The effect of a command -/

theorem State.lookupOf_eq (s : State) (q : Word) :
    s.lookupOf q =
      let hit := (List.range s.ringCount.toNat).find? fun i => decide (q.toNat ≤ (s.ringEntry i).point.toNat)
      { wrap := hit.isNone, index := BitVec.ofNat 16 (hit.getD 0), point := (s.ringEntry (hit.getD 0)).point
        node := (s.ringEntry (hit.getD 0)).node } := by
  have hhit : s.hit q = fun i => decide (q.toNat ≤ (s.ringEntry i).point.toNat) := rfl
  rw [State.lookupOf, State.select, State.count, hhit]
  cases (List.range s.ringCount.toNat).find? fun i => decide (q.toNat ≤ (s.ringEntry i).point.toNat) <;> rfl

/-- A family rule that raises no error gives the effect written out from its pseudocode. -/
theorem effect_of_body_ok {i : Instr} {s u : State} {l : Latch} (h : commandBody i s l = .ok u) : u = effect s l i := by
  cases i with
  | ringBegin | ringAppend | ringCommit =>
    simp only [commandBody] at h
    split_ifs at h
    cases h
    rfl
  | ringLookup src =>
    simp only [commandBody] at h
    split at h
    · cases h
    · cases h
    · cases h
      exact congrArg s.setLookup (s.lookupOf_eq _)
  | md5Final =>
    simp only [commandBody, digestOf_chainBytes, Except.ok.injEq] at h
    simp only [effect, ← h, State.setDigest, State.setResult, State.setMd5, md5Fresh, md5Iv]
  | nop | crcInit | crcUpdate | crcFinal | md5Init | md5Update => cases h; rfl

theorem body_eq_effect {i : Instr} {s : State} {l : Latch} (h : raises s l i = none) :
    commandBody i s l = .ok (effect s l i) := by
  cases hb : commandBody i s l with
  | ok u => rw [effect_of_body_ok hb]
  | error c => simp [commandBody_error_iff.1 hb] at h

theorem effect_error (s : State) (l : Latch) (i : Instr) : (effect s l i).error = s.error := by
  cases i <;> simp only [effect]

/-- Settles O37: a family rule either raises the error that `raises` names, which completion records, or gives
`Spec.effect`; with no command pending `exec` refuses. -/
theorem failedCommandOnlyRecordsItsError : Obligations.FailedCommandOnlyRecordsItsError := by
  refine ⟨fun s l i c hl hc => exec_of_body_error hl (commandBody_error_iff.2 hc), fun s l i hl hn => ?completes,
    fun s i hl => ?idle⟩
  case completes =>
    rw [exec_of_body_ok hl (body_eq_effect hn), ← effect_error s l i]
    rfl
  case idle =>
    rintro ⟨t, h⟩
    obtain ⟨l, hsome, -⟩ := exec_next h
    simp [hl] at hsome

/-- Everything a command that answers a next state leaves: its effect, or its error recorded and nothing else. -/
theorem exec_next_effect {i : Instr} {s t : State} (h : exec i s = .next t) :
    ∃ l, s.latch = some l ∧
      (t = (effect s l i).finish ∨ ∃ c, t = { s with error := s.error.or (some c), latch := none, done := true }) := by
  obtain ⟨l, hl, ⟨u, hu, rfl⟩ | ⟨c, -, rfl⟩⟩ := exec_next h
  · exact ⟨l, hl, .inl (by rw [effect_of_body_ok hu])⟩
  · exact ⟨l, hl, .inr ⟨c, by rw [State.recordError_eq]; rfl⟩⟩

/-! ### What no command writes -/

theorem effect_hostFields (s : State) (l : Latch) (i : Instr) :
    effect s l i = { effect s l i with
      dataIn := s.dataIn, ctrl := s.ctrl, cfg := s.cfg, script := s.script, rdata := s.rdata, epoch := s.epoch } := by
  cases i <;> simp only [effect]

/-- Settles O42: no effect writes one of these fields (`effect_hostFields`), nor does the recording of an error. -/
theorem commandsLeaveTheHostsRegisters : Obligations.CommandsLeaveTheHostsRegisters := by
  intro s t i h
  obtain ⟨l, -, rfl | ⟨c, rfl⟩⟩ := exec_next_effect h
  · rw [effect_hostFields]
    exact ⟨rfl, rfl, rfl, rfl, rfl, rfl⟩
  · exact ⟨rfl, rfl, rfl, rfl, rfl, rfl⟩

/-! ### The frame of each family -/

/-- Settles O43: each effect of a family, written out, changes fields of its own unit alone, and recording an error
changes none of them. -/
theorem familiesLeaveTheOtherUnits : Obligations.FamiliesLeaveTheOtherUnits := by
  intro s t i h
  obtain ⟨l, -, rfl | ⟨c, rfl⟩⟩ := exec_next_effect h
  · refine ⟨fun hi => ?crc, fun hi => ?md5, fun hi => ?ring⟩
    case crc =>
      obtain rfl | rfl | rfl | ⟨n, rfl⟩ : i = .nop ∨ i = .crcInit ∨ i = .crcFinal ∨ ∃ n, i = .crcUpdate n := by
        simpa [or_assoc] using hi
      all_goals simp [effect, State.ringEntry, State.bufByte]
    case md5 =>
      obtain rfl | rfl | ⟨n, rfl⟩ : i = .md5Init ∨ i = .md5Final ∨ ∃ n, i = .md5Update n := by
        simpa [or_assoc] using hi
      all_goals simp [effect, State.ringEntry, State.bufByte]
    case ring =>
      obtain rfl | ⟨n, rfl⟩ | ⟨k, rfl⟩ | ⟨src, rfl⟩ := hi
      all_goals simp [effect, State.ringEntry, State.bufByte]
  · exact ⟨fun _ => ⟨rfl, rfl, rfl, rfl, rfl, rfl, fun _ => rfl, fun _ => rfl, fun _ => rfl, fun _ => rfl⟩,
      fun _ => ⟨rfl, rfl, rfl, rfl, rfl, fun _ => rfl, fun _ => ⟨rfl, rfl⟩, fun _ _ => rfl⟩,
      fun _ => ⟨rfl, rfl, rfl, rfl, fun _ => rfl, fun _ => rfl, fun _ _ => rfl⟩⟩

end Sys2Proof.Machine
end

section
/-! PROOFS. The ring commands that write the table and its registers (43_ring.md R94, R95), and which steps can change
the ring (20_memory.md sections 4 and 5). -/

namespace Sys2Proof.Machine
open Sys2Proof.Spec

/-! ### RING_BEGIN -/

theorem decode_ringBegin_iff (v : Word) (n : Half) : decode v = .ok (.ringBegin n) ↔ v = encode (.ringBegin n) :=
  decode_eq_ok_iff (decode_encode rfl)

/-- Settles O28: the word by `decode_ringBegin_iff`, the effect by `exec_ringBegin_ok`, the error as the branch of the
family rule. -/
theorem ringBeginStartsABuild : Obligations.RingBeginStartsABuild := by
  refine ⟨decode_ringBegin_iff, fun s l n hl => ⟨fun hn => exec_ringBegin_ok hl hn, fun hn => ?_⟩⟩
  exact exec_of_body_error hl (if_pos hn)

/-! ### RING_APPEND -/

theorem decode_ringAppend_iff (v : Word) (k : Half) : decode v = .ok (.ringAppend k) ↔ v = encode (.ringAppend k) :=
  decode_eq_ok_iff (decode_encode rfl)

/-- RING_APPEND past its four checks writes the entry at RING_COUNT and counts it (43_ring.md R95). -/
theorem exec_ringAppend_ok {s : State} {l : Latch} {k : Half} (hl : s.latch = some l)
    (hok : appendError s l k = none) :
    exec (.ringAppend k) s =
      .next ((s.setRingEntry s.count { point := l.opnd, node := k }).setRingCount (s.ringCount + 1)).finish :=
  exec_of_body_ok hl (body_eq_effect (i := .ringAppend k) hok)

theorem exec_ringAppend_error {s : State} {l : Latch} {k : Half} {e : ErrCode} (hl : s.latch = some l)
    (he : appendError s l k = some e) :
    exec (.ringAppend k) s = .next { s with error := s.error.or (some e), latch := none, done := true } :=
  exec_of_body_error hl (commandBody_error_iff.2 he)

/-- Settles O29: each clause says which of the checks of R95 is the first to fail; past all of them the entry written is
read back and no other is changed (`State.ringEntry_setRingEntry`). -/
theorem ringAppendAddsOneEntry : Obligations.RingAppendAddsOneEntry := by
  refine ⟨decode_ringAppend_iff, fun s l k hl => ⟨fun hr => ?state, fun hr hc => ?full, fun hr hc hk => ?operand,
    fun hr hc hk hpos hlt => ?order, fun hr hc hk hle => ?appended⟩⟩
  case state => exact exec_ringAppend_error hl (if_pos hr)
  case full => exact exec_ringAppend_error hl (by simp [appendError, hr, hc])
  case operand => exact exec_ringAppend_error hl (by simp [appendError, hr, hc, hk])
  case order => exact exec_ringAppend_error hl (by simp [appendError, hr, hc, hk, hpos, hlt])
  case appended =>
    have hsorted : ¬ (0 < s.ringCount.toNat ∧ l.opnd.toNat < (s.ringEntry (s.ringCount.toNat - 1)).point.toNat) :=
      fun ⟨hpos, hlt⟩ => Nat.not_lt.2 (hle hpos) hlt
    have hok : appendError s l k = none := by simp only [appendError, hr, hc, Nat.not_le.2 hk, hsorted]; rfl
    refine ⟨_, exec_ringAppend_ok hl hok, rfl, ?_, fun j hj => ?_⟩
    · exact (State.ringEntry_setRingEntry s _ _ _).trans (if_pos rfl)
    · exact (State.ringEntry_setRingEntry s _ _ _).trans (if_neg hj)

/-! ### Which steps change the table -/

/-- Only the append of an entry changes one, and it is the one at RING_COUNT (20_memory.md R52). -/
theorem exec_changes_ringEntry {i : Instr} {s t : State} {k : Nat} (h : exec i s = .next t)
    (hne : t.ringEntry k ≠ s.ringEntry k) :
    k = s.count ∧ s.rstate = .building ∧
      ∃ l node, s.latch = some l ∧ i = .ringAppend node ∧ t.ringEntry k = { point := l.opnd, node := node } := by
  obtain ⟨-, -, -, -, -, hepoch⟩ := commandsLeaveTheHostsRegisters s t i h
  have hsame : t.ring ≠ s.ring := fun hring => hne (by rw [State.ringEntry, State.ringEntry, hring, hepoch])
  obtain ⟨l, hl, ⟨u, hu, rfl⟩ | ⟨c, -, rfl⟩⟩ := exec_next h
  · obtain ⟨_, -, -, rfl⟩ | ⟨node, hi, hr, rfl, -⟩ | ⟨-, -, -, rfl⟩ | ⟨_, -, -, rfl⟩ | ⟨-, -, -, hring, -⟩ :=
      commandBody_ok_ring hu
    · exact absurd rfl hsame
    · have hentry := s.ringEntry_setRingEntry s.count k { point := l.opnd, node := node }
      have hk : k = s.count := by
        by_contra hk
        exact hne (hentry.trans (if_neg hk))
      exact ⟨hk, hr, l, node, hl, hi, hentry.trans (if_pos hk)⟩
    · exact absurd rfl hsame
    · exact absurd rfl hsame
    · exact absurd hring hsame
  · exact absurd (s.recordError_ring c) hsame

theorem engineStep_changes_ringEntry {s t : State} {k : Nat} (h : engineStep s = .next t)
    (hne : t.ringEntry k ≠ s.ringEntry k) :
    k = s.count ∧ s.rstate = .building ∧
      ∃ l node, s.latch = some l ∧ decode l.word = .ok (.ringAppend node) ∧
        t.ringEntry k = { point := l.opnd, node := node } := by
  obtain ⟨-, rfl⟩ | ⟨l, i, hl, hd, hx⟩ := engineStep_next h
  · exact absurd rfl hne
  · obtain ⟨hk, hr, l', node, hl', rfl, hentry⟩ := exec_changes_ringEntry hx hne
    obtain rfl : l = l' := Option.some.inj (hl.symm.trans hl')
    exact ⟨hk, hr, l, node, hl, hd, hentry⟩

/-- Settles O36: a host access leaves the table (`hostStep_eq`), and in the engine's turn only RING_APPEND changes an
entry (`engineStep_changes_ringEntry`). -/
theorem onlyAppendWritesTheTable : Obligations.OnlyAppendWritesTheTable := by
  intro s t k hreset h hne
  obtain ⟨hs, he⟩ | ⟨a, es, hs, hh⟩ | ⟨es, hs, he⟩ | ⟨es, hs, -⟩ := step_next h
  · obtain ⟨hk, hr, happend⟩ := engineStep_changes_ringEntry he hne
    exact ⟨hk, hr, .inl hs, happend⟩
  · exact absurd (by rw [hostStep_eq hh]; rfl) hne
  · obtain ⟨hk, hr, happend⟩ := engineStep_changes_ringEntry (s := s.setScript es) he hne
    exact ⟨hk, hr, .inr ⟨es, hs⟩, happend⟩
  · exact absurd ⟨es, hs⟩ hreset

/-! ### A READY ring -/

/-- The READY ring of `s` is that of `t`: state, registers and table. -/
def SameReadyRing (s t : State) : Prop :=
  t.rstate = .ready ∧ t.ring = s.ring ∧ t.ringCount = s.ringCount ∧ t.ringNodes = s.ringNodes ∧
    ∀ k, t.ringEntry k = s.ringEntry k

theorem exec_keeps_readyRing {i : Instr} {s t : State} (hr : s.rstate = .ready) (hi : ∀ n, i ≠ .ringBegin n)
    (h : exec i s = .next t) : SameReadyRing s t := by
  have hentries : ∀ k, t.ringEntry k = s.ringEntry k := fun k => by
    by_contra hne
    obtain ⟨-, hb, -⟩ := exec_changes_ringEntry h hne
    simp [hr] at hb
  obtain ⟨l, -, ⟨u, hu, rfl⟩ | ⟨c, -, rfl⟩⟩ := exec_next h
  · obtain ⟨n, rfl, -⟩ | ⟨_, -, hb, -⟩ | ⟨-, hb, -⟩ | ⟨_, -, -, rfl⟩ | ⟨hrs, hcount, hnodes, hring, -⟩ :=
      commandBody_ok_ring hu
    · exact absurd rfl (hi n)
    · simp [hr] at hb
    · simp [hr] at hb
    · exact ⟨hr, rfl, rfl, rfl, hentries⟩
    · exact ⟨hrs.trans hr, hring, hcount, hnodes, hentries⟩
  · exact ⟨(s.recordError_rstate c).trans hr, s.recordError_ring c, s.recordError_ringCount c,
      s.recordError_ringNodes c, hentries⟩

/-- The OP of RING_BEGIN is 0x20, whatever its operand (30_encoding.md R66). -/
theorem op_of_decode_ringBegin {v : Word} {n : Half} (h : decode v = .ok (.ringBegin n)) :
    v.extractLsb' 0 8 = 0x20 := by
  obtain rfl := encode_of_decode h
  exact (fieldOp_of_hit (r := ⟨0x0000FFFF, 0x00000020, fun v => .ringBegin (fieldImm16 v)⟩) (by simp [opcodeTable])
    (Laws.EncodeInRow.imm_hits 0x00000020 n)).symm

theorem engineStep_keeps_readyRing {s t : State} (hr : s.rstate = .ready)
    (hop : ∀ l, s.latch = some l → l.word.extractLsb' 0 8 ≠ 0x20) (h : engineStep s = .next t) : SameReadyRing s t := by
  obtain ⟨-, rfl⟩ | ⟨l, i, hl, hd, hx⟩ := engineStep_next h
  · exact ⟨hr, rfl, rfl, rfl, fun _ => rfl⟩
  · refine exec_keeps_readyRing hr ?_ hx
    rintro n rfl
    exact hop l hl (op_of_decode_ringBegin hd)

/-- Settles O35: a host access leaves the ring (`hostStep_eq`), and of the commands only RING_BEGIN changes a READY one
(`exec_keeps_readyRing`). -/
theorem readyRingIsImmutable : Obligations.ReadyRingIsImmutable := by
  intro s t hr hreset h hop
  obtain ⟨hs, he⟩ | ⟨a, es, hs, hh⟩ | ⟨es, hs, he⟩ | ⟨es, hs, -⟩ := step_next h
  · exact engineStep_keeps_readyRing hr (hop (.inl hs)) he
  · rw [hostStep_eq hh]
    exact ⟨hr, rfl, rfl, rfl, fun _ => rfl⟩
  · exact engineStep_keeps_readyRing (s := s.setScript es) hr (hop (.inr ⟨es, hs⟩)) he
  · exact absurd ⟨es, hs⟩ hreset

end Sys2Proof.Machine
end

section
/-! PROOFS. The MD5 engine as a chain, the message bytes held in the block buffer, and a byte counter (42_md5.md R86):
what storing bytes does to them, whatever the rest of the buffer holds. -/

namespace Sys2Proof.Machine
open Sys2Proof.Spec

/-! ### Bytes stored, by their places in the buffer -/

theorem heldBytes_length (epoch : Nat) (m : Md5Ctx) : (heldBytes epoch m).length = m.level.toNat := by
  simp [heldBytes]

/-- `PutByte` writes the buffer at LEVEL alone. -/
theorem md5PutByte_buf (epoch : Nat) (m : Md5Ctx) (b : Byte) :
    (md5PutByte epoch m b).buf = Memory.write m.buf m.level.toNat b := by
  obtain ⟨hl, h⟩ | ⟨-, h⟩ := md5PutByte_cases epoch m b <;> rw [h]
  rw [hl]

theorem bufferByte_md5PutByte (epoch : Nat) (m : Md5Ctx) (b : Byte) (k : Nat) :
    bufferByte epoch (md5PutByte epoch m b).buf k = if k = m.level.toNat then b else bufferByte epoch m.buf k := by
  rw [md5PutByte_buf, bufferByte_write]

theorem md5PutBytes_cons (epoch : Nat) (m : Md5Ctx) (b : Byte) (bs : List Byte) :
    md5PutBytes epoch m (b :: bs) = md5PutBytes epoch (md5PutByte epoch m b) bs := rfl

theorem md5PutBytes_level (epoch : Nat) (m : Md5Ctx) (bs : List Byte) :
    (md5PutBytes epoch m bs).level.toNat = (m.level.toNat + bs.length) % 64 := by
  induction bs generalizing m with
  | nil => exact (Nat.mod_eq_of_lt m.level.isLt).symm
  | cons b bs ih =>
    rw [md5PutBytes_cons, ih, md5PutByte_level, List.length_cons]
    omega

/-- Storing bytes leaves every index of the buffer that is not one of the next `bs.length` from LEVEL on, modulo 64. -/
theorem bufferByte_md5PutBytes_other {epoch : Nat} {m : Md5Ctx} {bs : List Byte} {k : Nat}
    (h : ∀ j, j < bs.length → k ≠ (m.level.toNat + j) % 64) :
    bufferByte epoch (md5PutBytes epoch m bs).buf k = bufferByte epoch m.buf k := by
  induction bs generalizing m with
  | nil => rfl
  | cons b bs ih =>
    have hlevel := m.level.isLt
    have hhead : k ≠ m.level.toNat := by simpa [Nat.mod_eq_of_lt hlevel] using h 0 (by simp)
    have htail : ∀ j, j < bs.length → k ≠ ((md5PutByte epoch m b).level.toNat + j) % 64 := by
      intro j hj
      have := h (j + 1) (by simpa using hj)
      rw [md5PutByte_level]
      omega
    rw [md5PutBytes_cons, ih htail, bufferByte_md5PutByte, if_neg hhead]

/-- No more than 64 bytes: each is found where it was stored. -/
theorem bufferByte_md5PutBytes_stored {epoch : Nat} {m : Md5Ctx} {bs : List Byte} (hlen : bs.length ≤ 64) {j : Nat}
    (hj : j < bs.length) :
    bufferByte epoch (md5PutBytes epoch m bs).buf ((m.level.toNat + j) % 64) = bs[j] := by
  induction bs generalizing m j with
  | nil => simp at hj
  | cons b bs ih =>
    have hlevel := m.level.isLt
    rw [List.length_cons] at hlen hj
    rw [md5PutBytes_cons]
    cases j with
    | zero =>
      rw [bufferByte_md5PutBytes_other, bufferByte_md5PutByte]
      · simp [Nat.mod_eq_of_lt hlevel]
      · intro i hi
        rw [md5PutByte_level]
        omega
    | succ j =>
      have hplace : (m.level.toNat + (j + 1)) % 64 = ((md5PutByte epoch m b).level.toNat + j) % 64 := by
        rw [md5PutByte_level]
        omega
      rw [hplace, ih (by omega) (by omega), List.getElem_cons_succ]

/-! ### Bytes stored, as message bytes held and blocks compressed -/

/-- The chain, and the message bytes of a block not yet full. -/
structure BlockView where
  chain : Chain
  held : List Byte

/-- One byte taken into a block: the 64th compresses it. -/
def BlockView.put (v : BlockView) (b : Byte) : BlockView :=
  if v.held.length = 63 then { chain := md5Compress v.chain (v.held ++ [b]), held := [] }
  else { chain := v.chain, held := v.held ++ [b] }

/-- The engine's chain and held bytes: all of it that its later chains depend on (10_state.md R37, R38). -/
def Md5Ctx.view (epoch : Nat) (m : Md5Ctx) : BlockView := { chain := m.chain, held := heldBytes epoch m }

theorem md5PutByte_held {epoch : Nat} {m : Md5Ctx} {b : Byte} (h : m.level.toNat < 63) :
    (md5PutByte epoch m b).chain = m.chain ∧ heldBytes epoch (md5PutByte epoch m b) = heldBytes epoch m ++ [b] := by
  obtain ⟨hl, -⟩ | ⟨-, hput⟩ := md5PutByte_cases epoch m b
  · omega
  refine ⟨by rw [hput], ?_⟩
  have hlevel : (md5PutByte epoch m b).level.toNat = m.level.toNat + 1 := by
    rw [md5PutByte_level, Nat.mod_eq_of_lt (by omega)]
  rw [heldBytes, hlevel, List.range_succ, List.map_append, heldBytes]
  congr 1
  · refine List.map_congr_left fun k hk => ?_
    rw [bufferByte_md5PutByte, if_neg (by have := List.mem_range.1 hk; omega)]
  · simp [bufferByte_md5PutByte]

theorem md5PutByte_full {epoch : Nat} {m : Md5Ctx} {b : Byte} (h : m.level.toNat = 63) :
    (md5PutByte epoch m b).chain = md5Compress m.chain (heldBytes epoch m ++ [b]) ∧
      (md5PutByte epoch m b).level = 0 := by
  obtain ⟨-, hput⟩ | ⟨hl, -⟩ := md5PutByte_cases epoch m b
  · refine ⟨?_, by rw [hput]⟩
    have hblock : bufferBlock epoch (Memory.write m.buf 63 b) = heldBytes epoch m ++ [b] := by
      rw [bufferBlock, heldBytes, h, List.range_succ, List.map_append]
      congr 1
      · refine List.map_congr_left fun k hk => ?_
        rw [bufferByte_write, if_neg (by have := List.mem_range.1 hk; omega)]
      · simp [bufferByte_write]
    rw [hput, hblock]
  · omega

theorem view_md5PutByte (epoch : Nat) (m : Md5Ctx) (b : Byte) :
    (md5PutByte epoch m b).view epoch = (m.view epoch).put b := by
  have hlevel := m.level.isLt
  simp only [Md5Ctx.view, BlockView.put, heldBytes_length]
  split
  · next h =>
    obtain ⟨hchain, hzero⟩ := md5PutByte_full (epoch := epoch) (b := b) h
    have hempty : heldBytes epoch (md5PutByte epoch m b) = [] := by simp [heldBytes, hzero]
    rw [hchain, hempty]
  · next h =>
    obtain ⟨hchain, hheld⟩ := md5PutByte_held (epoch := epoch) (m := m) (b := b) (by omega)
    rw [hchain, hheld]

theorem view_md5PutBytes (epoch : Nat) (m : Md5Ctx) (bs : List Byte) :
    (md5PutBytes epoch m bs).view epoch = bs.foldl BlockView.put (m.view epoch) := by
  induction bs generalizing m with
  | nil => rfl
  | cons b bs ih => rw [md5PutBytes_cons, ih, view_md5PutByte, List.foldl_cons]

/-- Bytes that do not fill the block are held. -/
theorem foldl_put_partial (h : Chain) (held bs : List Byte) (hlen : held.length + bs.length < 64) :
    bs.foldl BlockView.put ⟨h, held⟩ = ⟨h, held ++ bs⟩ := by
  induction bs generalizing held with
  | nil => simp
  | cons b bs ih =>
    rw [List.length_cons] at hlen
    have hput : BlockView.put ⟨h, held⟩ b = ⟨h, held ++ [b]⟩ := if_neg (by simp only; omega)
    rw [List.foldl_cons, hput, ih _ (by simp; omega), List.append_assoc, List.singleton_append]

/-- Bytes that fill the block compress it. -/
theorem foldl_put_block (h : Chain) (held bs : List Byte) (hheld : held.length < 64)
    (hlen : held.length + bs.length = 64) : bs.foldl BlockView.put ⟨h, held⟩ = ⟨md5Compress h (held ++ bs), []⟩ := by
  obtain rfl | ⟨bs, b, rfl⟩ := List.eq_nil_or_concat' bs
  · simp at hlen; omega
  rw [List.length_append, List.length_singleton] at hlen
  have hput : BlockView.put ⟨h, held ++ bs⟩ b = ⟨md5Compress h (held ++ bs ++ [b]), []⟩ :=
    if_pos (by simp only [List.length_append]; omega)
  rw [List.foldl_append, foldl_put_partial h held bs (by omega), List.foldl_cons, hput, List.foldl_nil,
    List.append_assoc]

/-! ### Absorb and Finish -/

theorem md5PutBytes_setLen (epoch : Nat) (m : Md5Ctx) (x : Dword) (bs : List Byte) :
    md5PutBytes epoch { m with len := x } bs = { md5PutBytes epoch m bs with len := x } := by
  induction bs generalizing m with
  | nil => rfl
  | cons b bs ih => rw [md5PutBytes_cons, md5PutByte_setLen, ih, md5PutBytes_cons]

/-- Absorbing a byte is storing it, and counting it (42_md5.md R86). -/
theorem md5Absorb_eq (epoch : Nat) (m : Md5Ctx) (b : Byte) :
    md5Absorb epoch m b = { md5PutByte epoch m b with len := m.len + 1 } := by
  rw [md5Absorb, md5PutByte_len]

theorem md5AbsorbBytes_eq (epoch : Nat) (m : Md5Ctx) (bs : List Byte) :
    md5AbsorbBytes epoch m bs = { md5PutBytes epoch m bs with len := m.len + BitVec.ofNat 64 bs.length } := by
  induction bs generalizing m with
  | nil =>
    have hlen : m.len + BitVec.ofNat 64 ([] : List Byte).length = m.len := BitVec.add_zero m.len
    rw [hlen]
    rfl
  | cons b bs ih =>
    have hcount : m.len + 1 + BitVec.ofNat 64 bs.length = m.len + BitVec.ofNat 64 (b :: bs).length := by
      rw [List.length_cons, BitVec.add_assoc, Nat.add_comm, BitVec.ofNat_add]
      rfl
    calc md5AbsorbBytes epoch m (b :: bs)
        = md5AbsorbBytes epoch (md5Absorb epoch m b) bs := rfl
      _ = { md5PutBytes epoch m (b :: bs) with len := m.len + 1 + BitVec.ofNat 64 bs.length } := by
          rw [ih, md5Absorb_eq, md5PutBytes_setLen, md5PutBytes_cons]
      _ = _ := by rw [hcount]

/-- What Finish stores after the message: 0x80, the zero padding, the bit length (42_md5.md R86). -/
def finishBytes (level : Nat) (len : Dword) : List Byte :=
  [0x80] ++ List.replicate ((119 - level) % 64) 0 ++ leBytes64 (len * 8)

theorem md5Finish_eq_finishBytes (epoch : Nat) (m : Md5Ctx) :
    md5Finish epoch m = md5PutBytes epoch m (finishBytes m.level.toNat m.len) := md5Finish_eq epoch m

theorem finishBytes_length (level : Nat) (len : Dword) : (finishBytes level len).length = 9 + (119 - level) % 64 := by
  simp only [finishBytes, List.length_append, List.length_singleton, List.length_replicate, leBytes64_length]
  omega

end Sys2Proof.Machine
end

section
/-! PROOFS. The MD5 commands (42_md5.md R89 to R91) and what they do to the block buffer (R86). -/

namespace Sys2Proof.Machine
open Sys2Proof.Spec

/-! ### MD5_INIT -/

theorem exec_md5Init {s : State} {l : Latch} (hl : s.latch = some l) :
    exec .md5Init s = .next (s.setMd5 (md5Fresh s.md5.buf)).finish :=
  exec_of_body_ok hl rfl

/-- Settles O19: the word is MD5_INIT's own, and the effect is `exec_md5Init`. -/
theorem md5InitStartsAKey : Obligations.Md5InitStartsAKey :=
  ⟨fun _ => decode_eq_ok_iff (i := .md5Init) (by decide), fun _ _ => exec_md5Init⟩

/-! ### Absorb and MD5_UPDATE -/

/-- Settles O21: absorbing is storing and counting (`md5Absorb_eq`); the byte goes to index LEVEL, and the chain and
LEVEL are those of a byte held or of a block filled. -/
theorem absorbStoresAndCompresses : Obligations.AbsorbStoresAndCompresses := by
  intro epoch m b
  rw [md5Absorb_eq]
  refine ⟨rfl, bufferByte_md5PutByte epoch m b, fun h => ⟨(md5PutByte_held h).1, ?_⟩, md5PutByte_full⟩
  exact (md5PutByte_level epoch m b).trans (Nat.mod_eq_of_lt (by omega))

theorem exec_md5Update {s : State} {l : Latch} (hl : s.latch = some l) (n : Nat) :
    exec (.md5Update n) s = .next (s.setMd5 (md5AbsorbBytes s.epoch s.md5 (bytesOf l.opnd n))).finish :=
  exec_of_body_ok hl rfl

/-- Settles O20: the words are those of an UPDATE command, and the effect is `exec_md5Update`, whose bytes are the
lanes. -/
theorem md5UpdateAbsorbsTheLanes : Obligations.Md5UpdateAbsorbsTheLanes := by
  refine ⟨isUpdate_md5Update.decode_iff, fun v => isUpdate_md5Update.decode_unused, fun s l n hl => ?_⟩
  rw [exec_md5Update hl, lanes_eq_bytesOf]
  rfl

theorem bytesOf_length {n : Nat} (v : Word) (hn : n ≤ 4) : (bytesOf v n).length = n := by
  simp [bytesOf, leBytes, hn]

theorem getElem_bytesOf {v : Word} {n j : Nat} (hj : j < (bytesOf v n).length) : (bytesOf v n)[j] = lane v j := by
  have hj4 : j < 4 := lt_of_lt_of_le hj (by simp [bytesOf, leBytes])
  simp only [bytesOf, leBytes, List.getElem_take]
  interval_cases j <;> rfl

/-- Settles O22: absorbing stores the lanes one by one from LEVEL on, and at most four of them do not meet. -/
theorem md5UpdateBufferFrame : Obligations.Md5UpdateBufferFrame := by
  intro s t l n hl hn h
  obtain rfl := Host.Outcome.next.inj ((exec_md5Update hl n).symm.trans h)
  have hlen := bytesOf_length l.opnd hn
  have hbuf : ∀ k, (s.setMd5 (md5AbsorbBytes s.epoch s.md5 (bytesOf l.opnd n))).finish.bufByte k =
      bufferByte s.epoch (md5PutBytes s.epoch s.md5 (bytesOf l.opnd n)).buf k := fun k => by
    rw [md5AbsorbBytes_eq]
    rfl
  refine ⟨fun j hj => ?stored, fun k hk => ?other, rfl⟩
  case stored =>
    rw [hbuf, bufferByte_md5PutBytes_stored (by omega) (by omega), getElem_bytesOf]
    rfl
  case other => exact (hbuf k).trans (bufferByte_md5PutBytes_other (by rwa [hlen]))

/-! ### Finish and MD5_FINAL -/

/-- Settles O23: the word is MD5_FINAL's own, and the family rule publishes the words of the digest. -/
theorem md5FinalPublishesTheDigest : Obligations.Md5FinalPublishesTheDigest := by
  refine ⟨fun _ => decode_eq_ok_iff (i := .md5Final) (by decide), fun s l hl => ?_⟩
  dsimp only
  generalize hfin : md5Finish s.epoch s.md5 = fin
  have hbody : commandBody .md5Final s l =
      .ok (((s.setDigest (digestOf (chainBytes fin.chain))).setResult (digestOf (chainBytes fin.chain)).d0).setMd5
        (md5Fresh fin.buf)) := by rw [← hfin]; rfl
  rw [exec_of_body_ok hl hbody]
  rfl

theorem md5Finish_level (epoch : Nat) (m : Md5Ctx) : (md5Finish epoch m).level = 0 := by
  have hlevel := m.level.isLt
  apply BitVec.eq_of_toNat_eq
  rw [md5Finish_eq_finishBytes, md5PutBytes_level, finishBytes_length]
  show _ = 0
  omega

theorem md5Finish_chain (epoch : Nat) (m : Md5Ctx) :
    (md5Finish epoch m).chain =
      ((finishBytes m.level.toNat m.len).foldl BlockView.put ⟨m.chain, heldBytes epoch m⟩).chain := by
  rw [md5Finish_eq_finishBytes]
  exact congrArg BlockView.chain (view_md5PutBytes epoch m _)

/-- Settles O25: Finish stores `finishBytes`, which fill the block begun up to LEVEL 55, and that and one more from
LEVEL 56 on. -/
theorem finishPadsOneOrTwoBlocks : Obligations.FinishPadsOneOrTwoBlocks := by
  intro epoch m
  have hlevel := m.level.isLt
  have hheld := heldBytes_length epoch m
  refine ⟨md5Finish_level epoch m, fun k hk => ?kept, fun hle => ?oneBlock, fun hle => ?twoBlocks⟩
  case kept =>
    rw [md5Finish_eq_finishBytes]
    refine bufferByte_md5PutBytes_other fun j hj => ?_
    rw [finishBytes_length] at hj
    omega
  case oneBlock =>
    have hpad : (119 - m.level.toNat) % 64 = 55 - m.level.toNat := by omega
    rw [md5Finish_chain, foldl_put_block _ _ _ (by omega) (by rw [finishBytes_length]; omega), finishBytes, hpad,
      ← List.append_assoc, ← List.append_assoc]
    rfl
  case twoBlocks =>
    have hpad : (119 - m.level.toNat) % 64 = 63 - m.level.toNat + 56 := by omega
    have hsplit : finishBytes m.level.toNat m.len =
        ([0x80] ++ List.replicate (63 - m.level.toNat) 0) ++ (List.replicate 56 0 ++ leBytes64 (m.len * 8)) := by
      rw [finishBytes, hpad, List.replicate_add]
      simp only [List.append_assoc]
    rw [md5Finish_chain, hsplit, List.foldl_append,
      foldl_put_block _ _ ([0x80] ++ _) (by omega) (by simp; omega),
      foldl_put_block _ [] _ (by simp) (by simp), ← List.append_assoc]
    rfl

end Sys2Proof.Machine
end

section
/-! PROOFS. MD5 by the engine is MD5 of the padded message, block by block (42_md5.md R86, R87), whatever epoch and
buffer the engine starts with. -/

namespace Sys2Proof.Machine
open Sys2Proof.Spec

/-- A message of whole blocks is compressed block by block. -/
theorem foldl_put_blocks (h : Chain) (msg : List Byte) (n : Nat) (hlen : msg.length = 64 * n) :
    msg.foldl BlockView.put ⟨h, []⟩ =
      ⟨(List.range n).foldl (fun h i => md5Compress h (messageBlock msg i)) h, []⟩ := by
  induction n generalizing h msg with
  | zero =>
    obtain rfl := List.length_eq_zero_iff.1 hlen
    rfl
  | succ n ih =>
    have hfirst : (msg.take 64).foldl BlockView.put ⟨h, []⟩ = ⟨md5Compress h (msg.take 64), []⟩ :=
      foldl_put_block h [] _ (by simp) (by simp; omega)
    have hlater : ∀ i, messageBlock (msg.drop 64) i = messageBlock msg (i + 1) := fun i => by
      rw [messageBlock, messageBlock, List.drop_drop, Nat.mul_succ, Nat.add_comm]
    calc msg.foldl BlockView.put ⟨h, []⟩
        = (msg.drop 64).foldl BlockView.put ⟨md5Compress h (msg.take 64), []⟩ := by
          rw [← hfirst, ← List.foldl_append, List.take_append_drop]
      _ = _ := by
          rw [ih _ _ (by simp; omega), List.range_succ_eq_map, List.foldl_cons, List.foldl_map]
          simp only [hlater]
          rfl

/-- The padded message is the key and what Finish stores after it. -/
theorem paddedMessage_eq (k : List Byte) :
    paddedMessage k = k ++ finishBytes (k.length % 64) (BitVec.ofNat 64 k.length) := by
  have hbits : BitVec.ofNat 64 (8 * k.length) = BitVec.ofNat 64 k.length * 8 := by
    rw [Nat.mul_comm, BitVec.ofNat_mul]
    rfl
  simp only [paddedMessage, finishBytes, leBytes64, hbits, List.append_assoc]

theorem paddedMessage_length_mod (k : List Byte) : (paddedMessage k).length % 64 = 0 := by
  rw [paddedMessage_eq, List.length_append, finishBytes_length]
  omega

/-- The chain that the engine ends a key with: that of the padded message taken byte by byte from the initial value. -/
theorem md5Finish_absorbed_chain (epoch : Nat) (buf : List Host.Cell) (k : List Byte) :
    (md5Finish epoch (md5AbsorbBytes epoch (md5Fresh buf) k)).chain =
      ((paddedMessage k).foldl BlockView.put ⟨md5Iv, []⟩).chain := by
  have hview : (md5AbsorbBytes epoch (md5Fresh buf) k).view epoch = k.foldl BlockView.put ⟨md5Iv, []⟩ := by
    rw [md5AbsorbBytes_eq]
    exact view_md5PutBytes epoch (md5Fresh buf) k
  have hlevel : (md5AbsorbBytes epoch (md5Fresh buf) k).level.toNat = k.length % 64 := by
    rw [md5AbsorbBytes_eq]
    exact (md5PutBytes_level epoch (md5Fresh buf) k).trans (by simp [md5Fresh])
  have hlen : (md5AbsorbBytes epoch (md5Fresh buf) k).len = BitVec.ofNat 64 k.length := by
    rw [md5AbsorbBytes_eq]
    exact BitVec.zero_add _
  rw [md5Finish_chain, hlevel, hlen, paddedMessage_eq, List.foldl_append, ← hview]
  rfl

/-- The digest does not depend on the epoch or on what the buffer held before the key (10_state.md R38). -/
theorem chainBytes_md5Finish (epoch : Nat) (buf : List Host.Cell) (k : List Byte) :
    chainBytes (md5Finish epoch (md5AbsorbBytes epoch (md5Fresh buf) k)).chain = md5Of k := by
  rw [md5Of, md5Finish_absorbed_chain, md5Finish_absorbed_chain]

/-- Settles O26: the engine's chain is that of the padded message (`md5Finish_absorbed_chain`), which is whole blocks
(`foldl_put_blocks`). -/
theorem md5IsBlockwiseOverThePaddedMessage : Obligations.Md5IsBlockwiseOverThePaddedMessage := by
  intro k
  have hmod := paddedMessage_length_mod k
  refine ⟨hmod, ?_⟩
  rw [md5Of, md5Finish_absorbed_chain,
    foldl_put_blocks md5Iv _ ((paddedMessage k).length / 64) (by omega)]
  rfl

end Sys2Proof.Machine
end

section
/-! PROOFS. The CRC byte step by a table (41_crc.md R73). -/

namespace Sys2Proof.Machine

/-- The bit step as a sum: the shifted word, and the polynomial if a 1 left. -/
theorem crcBit_eq (c : Word) : crcBit c = (c >>> 1) ^^^ if c.getLsbD 0 then 0xEDB88320 else 0#32 := by
  unfold crcBit
  split
  · rfl
  · rw [BitVec.xor_zero]

theorem crcBit_xor (x y : Word) : crcBit (x ^^^ y) = crcBit x ^^^ crcBit y := by
  have hadd : ∀ (a b : Bool) (p : Word),
      (if (a ^^ b) then p else 0#32) = (if a then p else 0#32) ^^^ if b then p else 0#32 := by
    intro a b p
    cases a <;> cases b <;> simp
  rw [crcBit_eq, crcBit_eq, crcBit_eq, BitVec.getLsbD_xor, hadd, BitVec.ushiftRight_xor_distrib]
  ac_rfl

theorem repeat_crcBit_xor (n : Nat) (x y : Word) :
    Nat.repeat crcBit n (x ^^^ y) = Nat.repeat crcBit n x ^^^ Nat.repeat crcBit n y := by
  induction n with
  | zero => rfl
  | succ n ih => rw [Nat.repeat, ih, crcBit_xor]; rfl

/-- Zeros that leave shift the word down, and add nothing. -/
theorem crcBit_shiftLeft_one {x : Word} (h : x.toNat < 2 ^ 31) : crcBit (x <<< 1) = x := by
  have hlow : (x <<< 1).getLsbD 0 = false := by simp
  rw [crcBit, hlow]
  apply BitVec.eq_of_toNat_eq
  simp only [Bool.false_eq_true, if_false, BitVec.toNat_ushiftRight, BitVec.toNat_shiftLeft, Nat.shiftLeft_eq,
    Nat.shiftRight_eq_div_pow]
  omega

theorem repeat_crcBit_shiftLeft (n : Nat) {x : Word} (h : x.toNat * 2 ^ n < 2 ^ 32) :
    Nat.repeat crcBit n (x <<< n) = x := by
  induction n generalizing x with
  | zero => simp [Nat.repeat]
  | succ n ih =>
    have hx : x.toNat < 2 ^ 31 := by
      have := Nat.one_le_two_pow (n := n)
      rw [pow_succ] at h
      nlinarith
    have hdouble : (x <<< 1).toNat = x.toNat * 2 := by
      rw [BitVec.toNat_shiftLeft, Nat.shiftLeft_eq, pow_one, Nat.mod_eq_of_lt (by omega)]
    have hrest : (x <<< 1).toNat * 2 ^ n < 2 ^ 32 := by rwa [hdouble, Nat.mul_assoc, ← pow_succ']
    rw [Nat.repeat, Nat.add_comm, BitVec.shiftLeft_add, ih hrest, crcBit_shiftLeft_one hx]

/-- The word that the byte step starts from, as its high 24 bits beside its low byte. -/
theorem xor_setWidth_eq (c : Word) (b : Byte) :
    c ^^^ b.setWidth 32 = ((c >>> 8) <<< 8) ^^^ (0#32 ^^^ (c.setWidth 8 ^^^ b).setWidth 32) := by
  apply BitVec.eq_of_getLsbD_eq
  intro i hi
  simp only [BitVec.getLsbD_xor, BitVec.getLsbD_setWidth, BitVec.getLsbD_shiftLeft, BitVec.getLsbD_ushiftRight,
    BitVec.zero_xor, hi, decide_true, Bool.true_and]
  by_cases h8 : i < 8
  · simp [h8]
  · have hhigh : b.getLsbD i = false := BitVec.getLsbD_of_ge b i (by omega)
    simp [h8, hhigh, Nat.add_sub_cancel' (Nat.not_lt.1 h8)]

/-- Settles O16: the bit step is linear, the high 24 bits only shift down, and the low byte is the step's on 0. -/
theorem crcByteIsTableDriven : Obligations.CrcByteIsTableDriven := by
  intro c b
  have hshift : (c >>> 8).toNat * 2 ^ 8 < 2 ^ 32 := by
    have := c.isLt
    rw [BitVec.toNat_ushiftRight, Nat.shiftRight_eq_div_pow]
    omega
  rw [crcByte, xor_setWidth_eq, repeat_crcBit_xor, repeat_crcBit_shiftLeft 8 hshift]
  rfl

end Sys2Proof.Machine
end

section
/-! PROOFS. The invariant of all reachable states: it holds after reset and every step keeps it, and under it only an
illegal host access stops the machine. -/

namespace Sys2Proof.Machine
open Sys2Proof.Spec

/-! ### The state after reset -/

/-- Settles O46: reset's values are those of `State.resetWith`, as `State.applyReset_atReset` reads them. -/
theorem powerOnStateIsAtReset : Obligations.PowerOnStateIsAtReset :=
  fun cfg => ⟨State.applyReset_atReset (State.resetWith cfg), rfl⟩

/-- The invariant holds after reset, whatever is scheduled, read last, or counted as resets. -/
theorem inv_resetWith {cfg : Config} (h : cfg.legal = true) (es : List PortEvent) (r : Option Word) (n : Nat) :
    State.Inv { State.resetWith cfg with script := es, rdata := r, epoch := n } where
  cfgLegal := h
  countLe := Nat.zero_le _
  ringWf := rfl
  ringInTable := nofun
  ringWritten _ hk := absurd hk (Nat.not_lt_zero _)
  ringSorted _ hk := absurd hk (Nat.not_lt_zero _)
  ringNodeValid _ hk := absurd hk (Nat.not_lt_zero _)
  emptyHasNone _ := ⟨rfl, rfl⟩
  begunHasNode hr := absurd rfl hr
  readyHasEntry := nofun
  lkInTable := by
    simp only [Config.legal, Bool.and_eq_true, decide_eq_true_eq] at h
    exact h.1.1
  bufWf := rfl
  bufInBlock := nofun
  bufWritten _ hk := absurd hk (Nat.not_lt_zero _)
  latchLegal := nofun

/-- Settles O48: `inv_resetWith` at the empty schedule. -/
theorem resetStateMeetsTheInvariant : Obligations.ResetStateMeetsTheInvariant :=
  fun _ h => inv_resetWith h [] none 0

/-! ### The MD5 engine -/

/-- The part of the invariant that speaks of the block buffer (10_state.md R38). -/
structure Md5Ctx.Inv (m : Md5Ctx) : Prop where
  bufWf : Memory.wf m.buf = true
  bufInBlock : ∀ e ∈ m.buf, e.1 < 64
  bufWritten : ∀ k, k < m.level.toNat → (Memory.read? m.buf k).isSome = true

theorem State.Inv.md5Inv {s : State} (h : s.Inv) : s.md5.Inv := ⟨h.bufWf, h.bufInBlock, h.bufWritten⟩

theorem Md5Ctx.Inv.putByte {m : Md5Ctx} (h : m.Inv) (epoch : Nat) (b : Byte) : (md5PutByte epoch m b).Inv where
  bufWf := md5PutByte_buf epoch m b ▸ Memory.wf_write _ _ _ h.bufWf
  bufInBlock e he := by
    rw [md5PutByte_buf] at he
    obtain rfl | he := Memory.mem_write he
    · exact m.level.isLt
    · exact h.bufInBlock e he
  bufWritten k hk := by
    have hlevel := m.level.isLt
    rw [md5PutByte_level] at hk
    rw [md5PutByte_buf, Memory.read?_write]
    split
    · rfl
    · exact h.bufWritten k (by omega)

theorem Md5Ctx.Inv.putBytes {m : Md5Ctx} (h : m.Inv) (epoch : Nat) (bs : List Byte) : (md5PutBytes epoch m bs).Inv := by
  induction bs generalizing m with
  | nil => exact h
  | cons b bs ih => exact ih (h.putByte epoch b)

theorem Md5Ctx.Inv.absorbBytes {m : Md5Ctx} (h : m.Inv) (epoch : Nat) (bs : List Byte) :
    (md5AbsorbBytes epoch m bs).Inv := by
  obtain ⟨hwf, hin, hwritten⟩ := h.putBytes epoch bs
  rw [md5AbsorbBytes_eq]
  exact ⟨hwf, hin, hwritten⟩

theorem Md5Ctx.Inv.finish {m : Md5Ctx} (h : m.Inv) (epoch : Nat) : (md5Finish epoch m).Inv :=
  md5Finish_eq_finishBytes epoch m ▸ h.putBytes epoch _

/-- A new key holds no byte of the buffer. -/
theorem Md5Ctx.Inv.fresh {m : Md5Ctx} (h : m.Inv) : (md5Fresh m.buf).Inv :=
  ⟨h.bufWf, h.bufInBlock, fun _ hk => absurd hk (Nat.not_lt_zero _)⟩

theorem body_keeps_md5Inv {i : Instr} {s u : State} {l : Latch} (h : s.md5.Inv) (hu : commandBody i s l = .ok u) :
    u.md5.Inv := by
  obtain rfl := effect_of_body_ok hu
  cases i with
  | md5Init => exact h.fresh
  | md5Update n => exact h.absorbBytes _ _
  | md5Final => exact (h.finish _).fresh
  | nop | crcInit | crcUpdate | crcFinal | ringBegin | ringAppend | ringCommit | ringLookup => exact h

/-! ### Changes outside the ring -/

/-- `t` has the ring of `s`: the parameters, the ring's registers and state, the table and the lookup result. -/
structure SameRing (s t : State) : Prop where
  cfg : t.cfg = s.cfg
  rstate : t.rstate = s.rstate
  ringCount : t.ringCount = s.ringCount
  ringNodes : t.ringNodes = s.ringNodes
  lk : t.lk = s.lk
  ring : t.ring = s.ring
  epoch : t.epoch = s.epoch

/-- The latch holds no word, or one that decodes (30_encoding.md R63). -/
def State.LatchLegal (s : State) : Prop := ∀ l, s.latch = some l → ∃ i, decode l.word = .ok i

theorem State.LatchLegal.of_none {s : State} (h : s.latch = none) : s.LatchLegal := by
  intro l hl
  simp [h] at hl

theorem State.Inv.of_sameRing {s t : State} (h : s.Inv) (hr : SameRing s t) (hm : t.md5.Inv) (hl : t.LatchLegal) :
    t.Inv := by
  obtain ⟨⟩ := t
  obtain ⟨rfl, rfl, rfl, rfl, rfl, rfl, rfl⟩ := hr
  exact ⟨h.cfgLegal, h.countLe, h.ringWf, h.ringInTable, h.ringWritten, h.ringSorted, h.ringNodeValid, h.emptyHasNone,
    h.begunHasNode, h.readyHasEntry, h.lkInTable, hm.bufWf, hm.bufInBlock, hm.bufWritten, hl⟩

/-! ### The ring commands -/

theorem State.Inv.ringDepth_le {s : State} (h : s.Inv) : s.cfg.ringDepth ≤ 65536 := by
  have hlegal := h.cfgLegal
  simp only [Config.legal, Bool.and_eq_true, decide_eq_true_eq] at hlegal
  exact hlegal.1.2

theorem State.Inv.ringBegin {s : State} (h : s.Inv) {n : Half} (hn : n ≠ 0) :
    (((s.setRingNodes n).setRingCount 0).setRstate .building).Inv where
  cfgLegal := h.cfgLegal
  countLe := Nat.zero_le _
  ringWf := h.ringWf
  ringInTable := h.ringInTable
  ringWritten _ hk := absurd hk (Nat.not_lt_zero _)
  ringSorted _ hk := absurd hk (Nat.not_lt_zero _)
  ringNodeValid _ hk := absurd hk (Nat.not_lt_zero _)
  emptyHasNone := nofun
  begunHasNode _ := hn
  readyHasEntry := nofun
  lkInTable := h.lkInTable
  bufWf := h.bufWf
  bufInBlock := h.bufInBlock
  bufWritten := h.bufWritten
  latchLegal := h.latchLegal

/-- `s` with a point added at RING_COUNT (43_ring.md R95). -/
def State.append (s : State) (e : RingPoint) : State := (s.setRingEntry s.count e).setRingCount (s.ringCount + 1)

theorem State.count_append {s : State} (e : RingPoint) (h : s.count < 2 ^ 32 - 1) :
    (s.append e).count = s.count + 1 := by
  have hone : (1 : Word).toNat = 1 := rfl
  rw [State.count] at h ⊢
  rw [State.append, State.setRingCount_ringCount, BitVec.toNat_add, hone, Nat.mod_eq_of_lt (by omega), State.count]

theorem State.ringEntry_append (s : State) (e : RingPoint) (j : Nat) :
    (s.append e).ringEntry j = if j = s.count then e else s.ringEntry j :=
  s.ringEntry_setRingEntry s.count j e

/-- An append past its checks keeps the entries sorted, valid and written (43_ring.md R95, 10_state.md R35). -/
theorem State.Inv.append {s : State} (h : s.Inv) {e : RingPoint} (hr : s.rstate = .building)
    (hfull : s.count ≠ s.cfg.ringDepth) (hnode : e.node < s.ringNodes)
    (horder : 0 < s.count → (s.ringEntry (s.count - 1)).point ≤ e.point) : (s.append e).Inv := by
  have hle := h.countLe
  have hdepth := h.ringDepth_le
  have hcount : (s.append e).count = s.count + 1 := State.count_append e (by omega)
  refine ⟨h.cfgLegal, ?countLe, Memory.wf_write _ _ _ h.ringWf, fun c hc => ?inTable, fun k hk => ?written,
    fun k hk => ?sorted, fun k hk => ?valid, fun he => ?notEmpty, h.begunHasNode, fun _ => ?hasEntry, h.lkInTable,
    h.bufWf, h.bufInBlock, h.bufWritten, h.latchLegal⟩
  case countLe =>
    rw [hcount]
    exact lt_of_le_of_ne hle hfull
  case inTable =>
    obtain rfl | hc := Memory.mem_write hc
    · exact lt_of_le_of_ne hle hfull
    · exact h.ringInTable c hc
  case written =>
    rw [hcount] at hk
    refine (congrArg Option.isSome (Memory.read?_write s.ring s.count k e)).trans ?_
    split
    · rfl
    · exact h.ringWritten k (by omega)
  case sorted =>
    rw [hcount] at hk
    rw [State.ringEntry_append, State.ringEntry_append, if_neg (by omega)]
    split
    · next hlast =>
      have hprev : k = s.count - 1 := by omega
      exact hprev ▸ horder (by omega)
    · exact h.ringSorted k (by omega)
  case valid =>
    rw [hcount] at hk
    rw [State.ringEntry_append]
    split
    · exact hnode
    · exact h.ringNodeValid k (by omega)
  case notEmpty => exact absurd (hr.symm.trans he) (by decide)
  case hasEntry =>
    rw [hcount]
    exact Nat.succ_pos _

theorem State.Inv.ringCommit {s : State} (h : s.Inv) (hr : s.rstate = .building) (hc : s.ringCount ≠ 0) :
    (s.setRstate .ready).Inv where
  cfgLegal := h.cfgLegal
  countLe := h.countLe
  ringWf := h.ringWf
  ringInTable := h.ringInTable
  ringWritten := h.ringWritten
  ringSorted := h.ringSorted
  ringNodeValid := h.ringNodeValid
  emptyHasNone := nofun
  begunHasNode _ := h.begunHasNode (by rw [hr]; decide)
  readyHasEntry _ := Nat.pos_of_ne_zero fun hzero => hc (BitVec.eq_of_toNat_eq hzero)
  lkInTable := h.lkInTable
  bufWf := h.bufWf
  bufInBlock := h.bufInBlock
  bufWritten := h.bufWritten
  latchLegal := h.latchLegal

/-- A lookup of a READY ring gives an entry of the table (43_ring.md R97). -/
theorem State.Inv.ringLookup {s : State} (h : s.Inv) (hr : s.rstate = .ready) (q : Word) :
    (s.setLookup (s.lookupOf q)).Inv := by
  have hlt : (s.select q).1 < s.count := State.select_lt_count q (h.readyHasEntry hr)
  have hindex : (s.lookupOf q).index.toNat < s.cfg.ringDepth :=
    lt_of_eq_of_lt (h.index_toNat hlt) (lt_of_lt_of_le hlt h.countLe)
  exact ⟨h.cfgLegal, h.countLe, h.ringWf, h.ringInTable, h.ringWritten, h.ringSorted, h.ringNodeValid, h.emptyHasNone,
    h.begunHasNode, h.readyHasEntry, hindex, h.bufWf, h.bufInBlock, h.bufWritten, h.latchLegal⟩

/-! ### Every step -/

theorem effect_cfg (s : State) (l : Latch) (i : Instr) : (effect s l i).cfg = s.cfg := by
  cases i <;> simp only [effect]

theorem effect_epoch (s : State) (l : Latch) (i : Instr) : (effect s l i).epoch = s.epoch := by
  cases i <;> simp only [effect]

theorem effect_latch (s : State) (l : Latch) (i : Instr) : (effect s l i).latch = s.latch := by
  cases i <;> simp only [effect]

theorem body_keeps_inv {i : Instr} {s u : State} {l : Latch} (h : s.Inv) (hu : commandBody i s l = .ok u) : u.Inv := by
  obtain ⟨n, -, hn, rfl⟩ | ⟨k, -, hr, rfl, hfull, hnode, horder⟩ | ⟨-, hr, hc, rfl⟩ | ⟨src, -, hr, rfl⟩ |
    ⟨hrs, hcount, hnodes, hring, hlk⟩ := commandBody_ok_ring hu
  · exact h.ringBegin hn
  · exact h.append hr hfull hnode horder
  · exact h.ringCommit hr hc
  · exact h.ringLookup hr _
  · have hm := body_keeps_md5Inv h.md5Inv hu
    obtain rfl := effect_of_body_ok hu
    refine h.of_sameRing ⟨effect_cfg s l i, hrs, hcount, hnodes, hlk, hring, effect_epoch s l i⟩ hm ?_
    intro l' hl'
    exact h.latchLegal l' ((effect_latch s l i).symm.trans hl')

theorem exec_keeps_inv {i : Instr} {s t : State} (h : s.Inv) (hx : exec i s = .next t) : t.Inv := by
  obtain ⟨l, -, ⟨u, hu, rfl⟩ | ⟨c, -, rfl⟩⟩ := exec_next hx
  · have hinv := body_keeps_inv h hu
    exact hinv.of_sameRing ⟨rfl, rfl, rfl, rfl, rfl, rfl, rfl⟩ hinv.md5Inv (.of_none rfl)
  · rw [State.recordError_eq]
    exact h.of_sameRing ⟨rfl, rfl, rfl, rfl, rfl, rfl, rfl⟩ h.md5Inv (.of_none rfl)

theorem engineStep_keeps_inv {s t : State} (h : s.Inv) (he : engineStep s = .next t) : t.Inv := by
  obtain ⟨-, rfl⟩ | ⟨_, _, -, -, hx⟩ := engineStep_next he
  · exact h
  · exact exec_keeps_inv h hx

theorem State.Inv.setScript {s : State} (h : s.Inv) (es : List PortEvent) : (s.setScript es).Inv :=
  h.of_sameRing ⟨rfl, rfl, rfl, rfl, rfl, rfl, rfl⟩ h.md5Inv h.latchLegal

theorem hostStep_keeps_latchLegal {a : Access} {s t : State} (h : s.LatchLegal) (hh : hostStep a s = .next t) :
    t.LatchLegal := by
  obtain ⟨_, _, _, -, -, rfl⟩ | ⟨_, _, v, r, -, -, rfl⟩ := hostStep_next hh
  · exact h
  · intro l hl
    obtain hkept | ⟨-, -, hd, hnew⟩ := s.writeReg_latch_cases r v
    · exact h l (hkept.symm.trans hl)
    · obtain rfl := Option.some.inj (hl.symm.trans hnew)
      exact hd

theorem hostStep_keeps_inv {a : Access} {s t : State} (h : s.Inv) (hh : hostStep a s = .next t) : t.Inv := by
  have hl := hostStep_keeps_latchLegal h.latchLegal hh
  have ht := hostStep_eq hh
  refine h.of_sameRing ?_ ?_ hl
  · rw [ht]
    exact ⟨rfl, rfl, rfl, rfl, rfl, rfl, rfl⟩
  · rw [ht]
    exact h.md5Inv

/-- Settles O49: a host access leaves all but the latch, which acceptance fills with a decoded word; a command keeps the
ring sorted and valid (`State.Inv.append` and its like) and the buffer written; and reset starts anew. -/
theorem stepKeepsTheInvariant : Obligations.StepKeepsTheInvariant := by
  intro s t h hstep
  obtain ⟨-, he⟩ | ⟨a, es, -, hh⟩ | ⟨es, -, he⟩ | ⟨es, -, rfl⟩ := step_next hstep
  · exact engineStep_keeps_inv h he
  · exact hostStep_keeps_inv (h.setScript es) hh
  · exact engineStep_keeps_inv (h.setScript es) he
  · exact inv_resetWith h.cfgLegal _ _ _

/-! ### What stops, and what completes -/

/-- A pending command completes, with its effect or its error (60_exceptions.md R104). -/
theorem exec_completes {s : State} {l : Latch} (i : Instr) (hl : s.latch = some l) : ∃ t, exec i s = .next t := by
  cases hb : commandBody i s l with
  | ok u => exact ⟨_, exec_of_body_ok hl hb⟩
  | error c => exact ⟨_, exec_of_body_error hl hb⟩

theorem engineStep_completes {s : State} (h : s.LatchLegal) : ∃ t, engineStep s = .next t := by
  cases hl : s.latch with
  | none => exact ⟨s, engineStep_idle hl⟩
  | some l =>
    obtain ⟨i, hi⟩ := h l hl
    rw [engineStep_pending hl hi]
    exact exec_completes i hl

/-- A legal access (R43, R44) has a step. -/
theorem hostStep_of_legal {a : Access} {s : State} (h : a.legal s.cfg = true) : ∃ t, hostStep a s = .next t := by
  cases a with
  | read addr width | write addr width v =>
    simp only [Access.legal, Bool.and_eq_true, decide_eq_true_eq] at h
    obtain ⟨⟨⟨hwidth, hle⟩, hlt⟩, halign⟩ := h
    obtain ⟨r, hr⟩ := (target_ok_iff s.cfg addr width).2 ⟨hwidth, halign, hle, hlt⟩
    exact ⟨_, by simp only [hostStep, hr]; rfl⟩

theorem hostStep_ne_fault (a : Access) (s : State) (f : Fault) : hostStep a s ≠ .fault f := by
  cases a with
  | read addr width | write addr width v =>
    simp only [hostStep]
    split <;> exact nofun

/-- Settles O50: the engine's turn completes under the invariant, reset always steps, and so does a legal access. -/
theorem onlyIllegalAccessesStop : Obligations.OnlyIllegalAccessesStop := by
  intro s h
  by_cases hhost : ∃ a es, s.script = .host a :: es ∧ a.legal s.cfg = false
  · refine ⟨fun f hf => ?_, fun _ _ => hhost⟩
    obtain ⟨a, es, hs, -⟩ := hhost
    exact hostStep_ne_fault a _ f (step_host hs ▸ hf)
  · have hstep : ∃ t, step s = .next t := by
      match hs : s.script with
      | [] => exact step_empty hs ▸ engineStep_completes h.latchLegal
      | .engine :: es => exact step_engine hs ▸ engineStep_completes (s := s.setScript es) h.latchLegal
      | .reset :: es => exact ⟨_, step_reset hs⟩
      | .host a :: es =>
        refine step_host hs ▸ hostStep_of_legal (s := s.setScript es) ?_
        exact Bool.of_not_eq_false fun hillegal => hhost ⟨a, es, hs, hillegal⟩
    obtain ⟨t, ht⟩ := hstep
    rw [ht]
    exact ⟨nofun, nofun⟩

/-- Settles O51: with the schedule at its end the engine has the turn, and the latched word decodes. -/
theorem pendingCommandCompletes : Obligations.PendingCommandCompletes := by
  intro s l h hl hs
  obtain ⟨i, hi⟩ := h.latchLegal l hl
  obtain ⟨t, ht⟩ := exec_completes i hl
  exact ⟨t, by rw [step_empty hs, engineStep_pending hl hi, ht], exec_latch ht, exec_done ht⟩

end Sys2Proof.Machine
end

section
/-! PROOFS. The selector of a lookup as a lower-bound binary search (43_ring.md R98). -/

namespace Sys2Proof.Machine
open Sys2Proof.Spec

/-- A binary search of points in ascending order ends between those below the query and those that are not. -/
theorem lowerBound_spec {point : Nat → Word} {q : Word} {n : Nat}
    (hsorted : ∀ i j, i ≤ j → j < n → point i ≤ point j) (fuel lo hi : Nat) (hle : lo ≤ hi) (hn : hi ≤ n)
    (hfuel : hi - lo ≤ fuel) :
    lo ≤ lowerBound point q fuel lo hi ∧ lowerBound point q fuel lo hi ≤ hi ∧
      (∀ j, lo ≤ j → j < lowerBound point q fuel lo hi → point j < q) ∧
      (∀ j, lowerBound point q fuel lo hi ≤ j → j < hi → q ≤ point j) := by
  induction fuel generalizing lo hi with
  | zero =>
    rw [lowerBound]
    exact ⟨le_rfl, hle, fun j h1 h2 => absurd h1 (Nat.not_le.2 h2), fun j h1 h2 => by omega⟩
  | succ fuel ih =>
    simp only [lowerBound]
    split
    next hlt =>
      split
      next hmid =>
        obtain ⟨hl, hh, hbelow, habove⟩ := ih lo ((lo + hi) / 2) (by omega) (by omega) (by omega)
        refine ⟨hl, by omega, hbelow, fun j h1 h2 => ?_⟩
        by_cases hj : j < (lo + hi) / 2
        · exact habove j h1 hj
        · exact BitVec.le_trans hmid (hsorted _ j (Nat.not_lt.1 hj) (by omega))
      next hmid =>
        obtain ⟨hl, hh, hbelow, habove⟩ := ih ((lo + hi) / 2 + 1) hi (by omega) (by omega) (by omega)
        refine ⟨by omega, hh, fun j h1 h2 => ?_, habove⟩
        by_cases hj : (lo + hi) / 2 < j
        · exact hbelow j hj h2
        · have hjmid := hsorted j ((lo + hi) / 2) (Nat.not_lt.1 hj) (by omega)
          exact Std.lt_of_le_of_lt hjmid (BitVec.not_le.1 hmid)
    next hge => exact ⟨le_rfl, hle, fun j h1 h2 => absurd h1 (Nat.not_le.2 h2), fun j h1 h2 => by omega⟩

/-- Neighbours in order (10_state.md R35) are all in order. -/
theorem State.Inv.entries_le {s : State} (h : s.Inv) {i j : Nat} (hij : i ≤ j) (hj : j < s.count) :
    (s.ringEntry i).point ≤ (s.ringEntry j).point := by
  induction j, hij using Nat.le_induction with
  | base => exact BitVec.le_refl _
  | succ j hle ih => exact BitVec.le_trans (ih (by omega)) (h.ringSorted j hj)

/-- `Select` gives the index that the binary search ends at, or wraps if that is RING_COUNT. -/
theorem State.Inv.select_eq_lowerBound {s : State} (h : s.Inv) (q : Word) :
    let i := lowerBound (fun j => (s.ringEntry j).point) q s.count 0 s.count
    s.select q = (if i = s.count then 0 else i, decide (i = s.count)) := by
  intro i
  obtain ⟨-, hle, hbelow, habove⟩ := lowerBound_spec (point := fun j => (s.ringEntry j).point) (q := q)
    (fun _ _ => h.entries_le) s.count 0 s.count (Nat.zero_le _) le_rfl (Nat.sub_le _ _)
  by_cases hi : i = s.count
  · have hnone : ∀ j, j < s.count → (s.ringEntry j).point < q :=
      fun j hj => hbelow j (Nat.zero_le j) (lt_of_lt_of_eq hj hi.symm)
    simp [State.select_of_no_hit hnone, hi]
  · have hlt : i < s.count := lt_of_le_of_ne hle hi
    have hsel := State.select_of_lowest_hit hlt (habove i le_rfl hlt) fun j hj => hbelow j (Nat.zero_le j) hj
    simp [hsel, hi]

/-- Settles O32: the search and the selector agree (`State.Inv.select_eq_lowerBound`), and the lookup shows what they
select. -/
theorem lookupIsTheLowerBoundBinarySearch : Obligations.LookupIsTheLowerBoundBinarySearch := by
  intro s l src h hr hl q i
  have hsel : s.select (queryOf src l) = (if i = s.count then 0 else i, decide (i = s.count)) :=
    h.select_eq_lowerBound (queryOf src l)
  have hvalid : (if i = s.count then 0 else i) < s.count := by
    have := State.select_lt_count (queryOf src l) (h.readyHasEntry hr)
    rwa [hsel] at this
  exact ⟨_, exec_ringLookup_of_select hl hr hsel, rfl, h.index_toNat hvalid, rfl, rfl⟩

end Sys2Proof.Machine
end

section
/-! PROOFS. The host's lists: the chunks of a key (30_encoding.md R60), the decimal form, the points of a node, their
sort, and the plan of a build (43_ring.md R99 to R101). -/

namespace Sys2Proof.Machine
open Sys2Proof.Spec

/-! ### Chunks -/

theorem chunks_short {k : List Byte} (h1 : 1 ≤ k.length) (h3 : k.length ≤ 3) : chunks k = [k] := by
  match k with
  | [_] | [_, _] | [_, _, _] => rfl
  | [] => simp at h1
  | _ :: _ :: _ :: _ :: _ => simp at h3; omega

/-- Settles O17: four bytes are taken at a time, and what is left at the end is at most three. -/
theorem chunksSplitTheKey : Obligations.ChunksSplitTheKey := by
  intro k
  induction k using chunks.induct with
  | case1 b0 b1 b2 b3 rest ih =>
    obtain ⟨hflat, hsize, hcount, hfour⟩ := ih
    simp only [chunks, List.flatten_cons, List.length_cons, List.forall_mem_cons, hflat]
    refine ⟨rfl, ⟨by simp, hsize⟩, by omega, fun j hj hlt => ?_⟩
    cases j with
    | zero => rfl
    | succ j => exact hfour j (by omega) (by omega)
  | case2 => simp [chunks]
  | case3 k hnotFour hnotNil =>
    have h1 : 1 ≤ k.length := List.length_pos_iff.2 hnotNil
    have h3 : k.length ≤ 3 := by
      by_contra hlong
      match k with
      | [] | [_] | [_, _] | [_, _, _] => simp at hlong
      | b0 :: b1 :: b2 :: b3 :: rest => exact hnotFour b0 b1 b2 b3 rest rfl
    rw [chunks_short h1 h3]
    exact ⟨by simp, by simp; omega, by simp; omega, fun j hj hlt => by omega⟩

/-! ### The decimal form -/

/-- The number that ASCII digits read as, most significant first. -/
def readDecimal (ds : List Byte) : Nat := ds.foldl (fun a b => 10 * a + (b.toNat - 0x30)) 0

/-- `ds` are ASCII digits that read as `n`, with no leading zero but for 0 itself (43_ring.md R99). -/
structure IsDecimal (n : Nat) (ds : List Byte) : Prop where
  reads : readDecimal ds = n
  digits : ∀ b ∈ ds, 0x30 ≤ b.toNat ∧ b.toNat ≤ 0x39
  noLeadingZero : ds.head? = some 0x30 → n = 0

theorem digit_toNat {d : Nat} (h : d < 10) : (BitVec.ofNat 8 (0x30 + d)).toNat = 0x30 + d :=
  Nat.mod_eq_of_lt (by omega)

theorem IsDecimal.single {d : Nat} (h : d < 10) : IsDecimal d [BitVec.ofNat 8 (0x30 + d)] := by
  have hd := digit_toNat h
  refine ⟨by simp only [readDecimal, List.foldl_cons, List.foldl_nil, hd]; omega, fun b hb => ?_, fun hzero => ?_⟩
  · obtain rfl := List.mem_singleton.1 hb
    omega
  · have hsame : (BitVec.ofNat 8 (0x30 + d)).toNat = 0x30 := congrArg BitVec.toNat (Option.some.inj hzero)
    omega

/-- A digit put after the decimal form of a number that is not 0. -/
theorem IsDecimal.append_digit {n d : Nat} {ds : List Byte} (h : IsDecimal n ds) (hn : n ≠ 0) (hd : d < 10) :
    IsDecimal (10 * n + d) (ds ++ [BitVec.ofNat 8 (0x30 + d)]) := by
  obtain ⟨hreads, hdigits, hhead⟩ := h
  have hone := digit_toNat hd
  refine ⟨?_, ?_, fun hzero => ?_⟩
  · have happend : readDecimal (ds ++ [BitVec.ofNat 8 (0x30 + d)]) = 10 * readDecimal ds + (0x30 + d - 0x30) := by
      rw [readDecimal, List.foldl_append, List.foldl_cons, List.foldl_nil, hone]
      rfl
    rw [happend, hreads]
    omega
  · simp only [List.mem_append, List.mem_singleton]
    rintro b (hb | rfl)
    · exact hdigits b hb
    · omega
  · cases ds with
    | nil => exact absurd hreads.symm hn
    | cons b ds => exact absurd (hhead hzero) hn

/-- The digits of a number go before those already listed. -/
theorem decimalDigits_isDecimal (fuel n : Nat) (acc : List Byte) (hfuel : n < fuel) :
    ∃ ds, decimalDigits fuel n acc = ds ++ acc ∧ IsDecimal n ds := by
  induction fuel generalizing n acc with
  | zero => omega
  | succ fuel ih =>
    have hlast : n % 10 < 10 := Nat.mod_lt _ (by decide)
    simp only [decimalDigits]
    split
    next hsmall =>
      have hn : n % 10 = n := by omega
      have hdec := IsDecimal.single hlast
      rw [hn] at hdec ⊢
      exact ⟨_, rfl, hdec⟩
    next hbig =>
      obtain ⟨ds, hds, hdec⟩ := ih (n / 10) (BitVec.ofNat 8 (0x30 + n % 10) :: acc) (by omega)
      have hdec := hdec.append_digit hbig hlast
      rw [Nat.div_add_mod] at hdec
      exact ⟨_, by rw [hds, List.append_assoc, List.singleton_append], hdec⟩

theorem dec_isDecimal (i : Nat) : IsDecimal i (dec i) := by
  obtain ⟨ds, hds, hdec⟩ := decimalDigits_isDecimal (i + 1) i [] (Nat.lt_succ_self i)
  rwa [dec, hds, List.append_nil]

/-- Settles O55: the digits are listed from the last one on, each put before those of the rest (`dec_isDecimal`). -/
theorem decIsTheDecimalForm : Obligations.DecIsTheDecimalForm :=
  fun i => ⟨(dec_isDecimal i).reads, (dec_isDecimal i).digits, (dec_isDecimal i).noLeadingZero, rfl⟩

/-! ### The points of a node -/

theorem length_flatMap_range {α : Type} {f : Nat → List α} {c : Nat} (hf : ∀ i, (f i).length = c) (n : Nat) :
    ((List.range n).flatMap f).length = c * n := by
  simp [List.length_flatMap, hf, Nat.mul_comm]

/-- Lists of one length, one after the other: where each element of each of them is. -/
theorem getElem?_flatMap_range {α : Type} {f : Nat → List α} {c : Nat} (hf : ∀ i, (f i).length = c) {n i j : Nat}
    (hi : i < n) (hj : j < c) : ((List.range n).flatMap f)[c * i + j]? = (f i)[j]? := by
  induction n with
  | zero => omega
  | succ n ih =>
    rw [List.range_succ, List.flatMap_append, List.flatMap_singleton]
    have hlen := length_flatMap_range hf n
    obtain hlt | rfl := Nat.lt_succ_iff_lt_or_eq.1 hi
    · have hin : c * i + j < c * n := by
        have := Nat.mul_le_mul_left c (Nat.succ_le_of_lt hlt)
        rw [Nat.mul_succ] at this
        omega
      rw [List.getElem?_append_left (by omega), ih hlt]
    · rw [List.getElem?_append_right (by omega), hlen, Nat.add_sub_cancel_left]

theorem digestPoints_length (n : Half) (id : List Byte) (i : Nat) : (digestPoints n id i).length = 4 := rfl

theorem nodePoints_length (n : Half) (id : List Byte) (w : Nat) : (nodePoints n id w).length = 160 * w := by
  rw [nodePoints, length_flatMap_range (digestPoints_length n id)]
  omega

/-- Settles O54: four points for each of 40·w digests, in order (`getElem?_flatMap_range`). -/
theorem nodePointsAreTheDigestWords : Obligations.NodePointsAreTheDigestWords := by
  intro n id w
  refine ⟨nodePoints_length n id w, fun i j hi hj => ?_⟩
  rw [nodePoints, getElem?_flatMap_range (digestPoints_length n id) hi hj, digestPoints, List.getElem?_map,
    List.getElem?_range hj]
  rfl

/-! ### The sort -/

/-- The order of the points of a ring: by value alone (43_ring.md R100). -/
abbrev PointLe (p q : RingPoint) : Prop := p.point ≤ q.point

theorem insertPoint_eq_orderedInsert (p : RingPoint) (ps : List RingPoint) :
    insertPoint p ps = ps.orderedInsert PointLe p := by
  induction ps with
  | nil => rfl
  | cons q ps ih => rw [insertPoint, List.orderedInsert_cons, ih]

/-- The host's sort is the library's insertion sort. -/
theorem sortPoints_eq_insertionSort (ps : List RingPoint) : sortPoints ps = ps.insertionSort PointLe := by
  induction ps with
  | nil => rfl
  | cons p ps ih =>
    rw [List.insertionSort_cons, ← ih, ← insertPoint_eq_orderedInsert]
    rfl

theorem sortPoints_perm (ps : List RingPoint) : (sortPoints ps).Perm ps :=
  sortPoints_eq_insertionSort ps ▸ List.perm_insertionSort PointLe ps

theorem sortPoints_sorted (ps : List RingPoint) : (sortPoints ps).Pairwise PointLe := by
  have htotal : Std.Total PointLe := ⟨fun p q => BitVec.le_total p.point q.point⟩
  have htrans : IsTrans RingPoint PointLe := ⟨fun _ _ _ => BitVec.le_trans⟩
  rw [sortPoints_eq_insertionSort]
  exact List.pairwise_insertionSort PointLe ps

/-- Equal points keep their order: they are in order as they stand, so they stay a sublist (43_ring.md R100). -/
theorem sortPoints_stable (ps : List RingPoint) (v : Word) :
    (sortPoints ps).filter (fun p => p.point = v) = ps.filter (fun p => p.point = v) := by
  have hequal : (ps.filter fun p => p.point = v).Pairwise PointLe := by
    refine List.pairwise_filter.2 (List.pairwise_of_forall fun p q hp hq => ?_)
    rw [PointLe, of_decide_eq_true hp, of_decide_eq_true hq]
    exact BitVec.le_refl v
  have hsub : (ps.filter fun p => p.point = v).Sublist (sortPoints ps) :=
    sortPoints_eq_insertionSort ps ▸ List.sublist_insertionSort hequal List.filter_sublist
  have hfilter : (ps.filter fun p => p.point = v).Sublist ((sortPoints ps).filter fun p => p.point = v) := by
    simpa using hsub.filter fun p => p.point = v
  exact (hfilter.eq_of_length ((sortPoints_perm ps).filter _).length_eq.symm).symm

/-- Settles O53: the host's sort is the library's insertion sort, and that is stable. -/
theorem sortIsAscendingAndStable : Obligations.SortIsAscendingAndStable :=
  fun ps => ⟨sortPoints_sorted ps, sortPoints_perm ps, sortPoints_stable ps⟩

/-! ### The plan of a build -/

theorem generatePoints_length (n : Nat) (nodes : List HostNode) :
    (generatePoints n nodes).length = totalPoints nodes := by
  induction nodes generalizing n with
  | nil => rfl
  | cons nd nodes ih =>
    rw [generatePoints, List.length_append, ih, nodePoints_length]
    rfl

/-- Settles O56: the branches of `planBuild`, in the order of the host's checks. -/
theorem invalidWeightRejectsTheBuild : Obligations.InvalidWeightRejectsTheBuild := by
  intro s polls nodes
  refine ⟨fun hbad => ?weight, fun hgood => ?rest⟩
  case weight =>
    have hplan : planBuild s.cfg nodes = .error .invalidWeight := if_pos (by simpa using hbad)
    rw [buildRing, hplan]
  case rest =>
    have hweight : ¬ (nodes.any fun nd => decide (nd.weight ≤ 0)) = true := by simpa using hgood
    refine ⟨fun hcount => ?nodeCount, fun h1 hmax htotal => ?tooMany, fun h1 hmax htotal => ?loaded⟩
    case nodeCount =>
      have hplan : planBuild s.cfg nodes = .error .nodeCount := (if_neg hweight).trans (if_pos hcount)
      rw [buildRing, hplan]
    case tooMany =>
      have hplan : planBuild s.cfg nodes = .error .tooManyPoints :=
        (if_neg hweight).trans ((if_neg (by omega)).trans (if_pos (by rwa [generatePoints_length])))
      rw [buildRing, hplan]
    case loaded =>
      have hplan : planBuild s.cfg nodes = .ok (sortPoints (generatePoints 0 nodes)) :=
        (if_neg hweight).trans ((if_neg (by omega)).trans (if_neg (by rw [generatePoints_length]; omega)))
      rw [buildRing, hplan]

end Sys2Proof.Machine
end

section
/-! PROOFS. The hash procedures of the host (30_encoding.md R69): a key fed in any split leaves its ketama hash and its
MD5 digest. -/

namespace Sys2Proof.Machine
open Sys2Proof.Spec

/-! ### Commands of a procedure that raise no error -/

/-- `s` idle again after commands of a procedure: DATA_IN, DONE and the value read last are what the procedure left. -/
def State.ran (s : State) (d : Word) (dn : Bool) (r : Option Word) : State :=
  { s with dataIn := d, done := dn, rdata := r, latch := none }

theorem State.ran_self {s : State} (hl : s.latch = none) : s.ran s.dataIn s.done s.rdata = s := by
  rw [State.ran, ← hl]

/-- `DO c` from an idle state, where the family rule raises no error: its effect, and STATUS read. -/
theorem runsTo_doCmd_ok {s u : State} {i : Instr} (polls : Nat) (hl : s.latch = none) (hi : i.wellFormed = true)
    (hb : commandBody i (s.setLatch (s.latchOf (encode i))) (s.latchOf (encode i)) = .ok u) :
    RunsTo (doCmd s.cfg polls i) s (u.finish.setRdata u.finish.statusWord) :=
  runsTo_doCmd polls hl (decode_encode hi) (exec_of_body_ok rfl hb)

/-- The same, with the effect `v` of the command beside what every command leaves. -/
theorem runsTo_doCmd_ran {s u v : State} {i : Instr} (polls : Nat) (hl : s.latch = none) (hi : i.wellFormed = true)
    (hb : commandBody i (s.setLatch (s.latchOf (encode i))) (s.latchOf (encode i)) = .ok u)
    (hv : u.finish = v.ran s.dataIn true s.rdata) :
    ∃ r, RunsTo (doCmd s.cfg polls i) s (v.ran s.dataIn true r) := by
  have hrun := runsTo_doCmd_ok polls hl hi hb
  rw [hv] at hrun
  exact ⟨_, hrun⟩

/-- A write of DATA_IN, then `DO c`: the operand of R69 and R100. -/
theorem runsTo_operand_doCmd {s u : State} {i : Instr} (polls : Nat) (d : Word) (hl : s.latch = none)
    (hi : i.wellFormed = true)
    (hb : commandBody i ((s.setDataIn d).setLatch ((s.setDataIn d).latchOf (encode i)))
      ((s.setDataIn d).latchOf (encode i)) = .ok u) :
    RunsTo (wr s.cfg 0x14 d :: doCmd s.cfg polls i) s (u.finish.setRdata u.finish.statusWord) :=
  runsTo_append (runsTo_wr s 5 d (by decide)) (runsTo_doCmd_ok (s := s.setDataIn d) polls hl hi hb)

/-! ### FEED -/

/-- The word of a chunk has the chunk's bytes in its lanes (30_encoding.md R69, 20_memory.md R49). -/
theorem bytesOf_chunkWord {p : List Byte} (h : 1 ≤ p.length ∧ p.length ≤ 4) : bytesOf (chunkWord p) p.length = p := by
  rw [bytesOf, chunkWord, leBytes_le32]
  obtain ⟨h1, h4⟩ := h
  match p with
  | [_] | [_, _] | [_, _, _] | [_, _, _, _] => rfl
  | [] => simp at h1
  | _ :: _ :: _ :: _ :: _ :: _ => simp at h4; omega

/-- The UPDATE commands `update n` take the bytes of their operand by `take`, which runs on from chunk to chunk and has
no part in the host's side of the state. -/
structure TakesBytes (update : Nat → Instr) (take : List Byte → State → State) : Prop where
  wellFormed : ∀ n, 1 ≤ n ∧ n ≤ 4 → (update n).wellFormed = true
  body : ∀ n s l, commandBody (update n) s l = .ok (take (bytesOf l.opnd n) s)
  nil : ∀ s, take [] s = s
  append : ∀ xs ys s, take (xs ++ ys) s = take ys (take xs s)
  ran : ∀ bs s d dn r, take bs (s.ran d dn r) = (take bs s).ran d dn r
  operand : ∀ bs s d l, (take bs ((s.setDataIn d).setLatch l)).finish = (take bs s).ran d true s.rdata
  cfg : ∀ bs s, (take bs s).cfg = s.cfg

namespace TakesBytes

variable {update : Nat → Instr} {take : List Byte → State → State} (h : TakesBytes update take)
include h

theorem runsTo_feedChunk {s : State} (polls : Nat) (hl : s.latch = none) {p : List Byte}
    (hp : 1 ≤ p.length ∧ p.length ≤ 4) :
    ∃ r, RunsTo (feedChunk s.cfg polls update p) s ((take p s).ran (chunkWord p) true r) := by
  have hrun := runsTo_operand_doCmd polls (chunkWord p) hl (h.wellFormed _ hp) (h.body p.length _ _)
  have hbytes : bytesOf ((s.setDataIn (chunkWord p)).latchOf (encode (update p.length))).opnd p.length = p :=
    bytesOf_chunkWord hp
  rw [hbytes, h.operand] at hrun
  exact ⟨_, hrun⟩

/-- FEED of any split takes the bytes of the key in order (30_encoding.md R60). -/
theorem runsTo_feed {s : State} (polls : Nat) (hl : s.latch = none) {parts : List (List Byte)}
    (hparts : ∀ p ∈ parts, 1 ≤ p.length ∧ p.length ≤ 4) :
    ∃ d dn r, RunsTo (feed s.cfg polls update parts) s ((take parts.flatten s).ran d dn r) := by
  induction parts generalizing s with
  | nil =>
    refine ⟨s.dataIn, s.done, s.rdata, ?_⟩
    rw [List.flatten_nil, h.nil, State.ran_self hl]
    exact runsTo_nil s
  | cons p parts ih =>
    rw [List.forall_mem_cons] at hparts
    obtain ⟨r, hfirst⟩ := h.runsTo_feedChunk polls hl hparts.1
    obtain ⟨d, dn, r', hrest⟩ := ih (s := (take p s).ran (chunkWord p) true r) rfl hparts.2
    have hcfg : ((take p s).ran (chunkWord p) true r).cfg = s.cfg := h.cfg p s
    rw [hcfg, h.ran] at hrest
    refine ⟨d, dn, r', ?_⟩
    rw [List.flatten_cons, h.append]
    exact runsTo_append hfirst hrest

end TakesBytes

/-! ### HASH_KETAMA -/

theorem takesBytes_crcUpdate : TakesBytes .crcUpdate fun bs s => s.setCrc (crcBytes s.crc bs) where
  wellFormed n hn := by simp [Instr.wellFormed, byteCountOk, hn]
  body _ _ _ := rfl
  nil _ := rfl
  append xs ys s := by simp [crcBytes, State.setCrc]
  ran _ _ _ _ _ := rfl
  operand _ _ _ _ := rfl
  cfg _ _ := rfl

/-- HASH_KETAMA from an idle state: CRC_INIT, the key, CRC_FINAL and the read of RESULT. -/
theorem runsTo_hashKetama {s : State} (polls : Nat) (hl : s.latch = none) {parts : List (List Byte)}
    (hparts : ∀ p ∈ parts, 1 ≤ p.length ∧ p.length ≤ 4) :
    ∃ d, RunsTo (hashKetama s.cfg polls parts) s
      (((s.setCrc crcInitial).setResult (ketamaHash parts.flatten s.ctrl.crcslice)).ran d true
        (some (ketamaHash parts.flatten s.ctrl.crcslice))) := by
  obtain ⟨r, init⟩ := runsTo_doCmd_ran (i := .crcInit) (v := s.setCrc crcInitial) polls hl rfl rfl rfl
  obtain ⟨d, dn, r', fed⟩ := takesBytes_crcUpdate.runsTo_feed
    (s := (s.setCrc crcInitial).ran s.dataIn true r) polls rfl hparts
  obtain ⟨r'', final⟩ := runsTo_doCmd_ran (i := .crcFinal)
    (s := (s.setCrc (crcBytes crcInitial parts.flatten)).ran d dn r')
    (v := (s.setCrc crcInitial).setResult (ketamaHash parts.flatten s.ctrl.crcslice)) polls rfl rfl rfl rfl
  have result := runsTo_rd
    (((s.setCrc crcInitial).setResult (ketamaHash parts.flatten s.ctrl.crcslice)).ran d true r'') 6 (by decide)
  exact ⟨d, runsTo_append (runsTo_append (runsTo_append init fed) final) result⟩

/-- Settles O18: the procedure's last state is written out by `runsTo_hashKetama`; the hash of the empty key is computed
for each slice. -/
theorem ketamaHashOfAnySplit : Obligations.KetamaHashOfAnySplit := by
  refine ⟨fun s polls parts hl hparts => ?_, fun slice => by cases slice <;> decide⟩
  obtain ⟨d, hrun⟩ := runsTo_hashKetama polls hl hparts
  exact ⟨_, hrun.runScript, rfl, rfl, rfl, rfl, rfl, rfl, rfl, rfl, rfl, rfl, rfl, rfl, rfl, rfl, rfl⟩

/-! ### HASH_MD5 -/

theorem takesBytes_md5Update : TakesBytes .md5Update fun bs s => s.setMd5 (md5AbsorbBytes s.epoch s.md5 bs) where
  wellFormed n hn := by simp [Instr.wellFormed, byteCountOk, hn]
  body _ _ _ := rfl
  nil _ := rfl
  append xs ys s := by simp [md5AbsorbBytes_append, State.setMd5]
  ran _ _ _ _ _ := rfl
  operand _ _ _ _ := rfl
  cfg _ _ := rfl

/-- `s` after a key hashed by MD5 to the digest bytes `k`, the buffer left as `buf` (42_md5.md R91). -/
def State.publishDigest (s : State) (k : List Byte) (buf : List Host.Cell) : State :=
  ((s.setDigest (digestOf k)).setResult (digestWord k 0)).setMd5 (md5Fresh buf)

theorem md5Final_body (s : State) (l : Latch) :
    commandBody .md5Final s l =
      .ok (s.publishDigest (chainBytes (md5Finish s.epoch s.md5).chain) (md5Finish s.epoch s.md5).buf) := rfl

/-- HASH_MD5 from an idle state: MD5_INIT, the key, MD5_FINAL and the read of RESULT. -/
theorem runsTo_hashMd5 {s : State} (polls : Nat) (hl : s.latch = none) {parts : List (List Byte)}
    (hparts : ∀ p ∈ parts, 1 ≤ p.length ∧ p.length ≤ 4) :
    ∃ d buf, RunsTo (hashMd5 s.cfg polls parts) s
      ((s.publishDigest (md5Of parts.flatten) buf).ran d true (some (md5Hash parts.flatten))) := by
  obtain ⟨r, init⟩ := runsTo_doCmd_ran (i := .md5Init) (v := s.setMd5 (md5Fresh s.md5.buf)) polls hl rfl rfl rfl
  obtain ⟨d, dn, r', fed⟩ := takesBytes_md5Update.runsTo_feed
    (s := (s.setMd5 (md5Fresh s.md5.buf)).ran s.dataIn true r) polls rfl hparts
  obtain ⟨r'', final⟩ := runsTo_doCmd_ran (i := .md5Final)
    (s := (s.setMd5 (md5AbsorbBytes s.epoch (md5Fresh s.md5.buf) parts.flatten)).ran d dn r')
    (v := s.publishDigest (md5Of parts.flatten)
      (md5Finish s.epoch (md5AbsorbBytes s.epoch (md5Fresh s.md5.buf) parts.flatten)).buf)
    polls rfl rfl (md5Final_body _ _) (by rw [← chainBytes_md5Finish s.epoch s.md5.buf]; rfl)
  have result := runsTo_rd (State.ran (s.publishDigest (md5Of parts.flatten)
      (md5Finish s.epoch (md5AbsorbBytes s.epoch (md5Fresh s.md5.buf) parts.flatten)).buf) d true r'') 6 (by decide)
  exact ⟨d, _, runsTo_append (runsTo_append (runsTo_append init fed) final) result⟩

/-- The digest of the empty key (RFC 1321, 95_test_vectors.md V-M1). -/
theorem md5Of_nil :
    md5Of [] = [0xd4, 0x1d, 0x8c, 0xd9, 0x8f, 0x00, 0xb2, 0x04, 0xe9, 0x80, 0x09, 0x98, 0xec, 0xf8, 0x42, 0x7e] := by
  decide +kernel

/-- Settles O27: the procedure's last state is written out by `runsTo_hashMd5`; the empty key is computed. -/
theorem md5HashOfAnySplit : Obligations.Md5HashOfAnySplit := by
  refine ⟨fun s polls parts hl hparts => ?_, md5Of_nil, by rw [md5Hash, md5Of_nil]; decide⟩
  obtain ⟨d, buf, hrun⟩ := runsTo_hashMd5 polls hl hparts
  exact ⟨_, hrun.runScript, rfl, rfl, rfl, rfl, rfl, rfl, rfl, rfl, rfl, rfl, rfl, rfl, rfl, rfl, rfl, rfl, rfl⟩

end Sys2Proof.Machine
end

section
/-! PROOFS. The ring procedures of the host (30_encoding.md R69, 43_ring.md R99 to R101): LOOKUP, and the load of a
sorted list of points, with and without its checks of ERR. -/

namespace Sys2Proof.Machine
open Sys2Proof.Spec

/-! ### LOOKUP -/

/-- The number that `checkErr` reads is the number of the error (60_exceptions.md R103). -/
theorem ErrCode.code_eq (c : ErrCode) : c.code = BitVec.ofNat 4 (errorNumber (some c)) := by
  cases c <;> rfl

/-- `s` with the lookup of `d` accepted: what RING_LOOKUP completes on. -/
def State.lookupIssued (s : State) (d : Word) : State :=
  (s.setDataIn d).setLatch ((s.setDataIn d).latchOf (encode (.ringLookup .data)))

/-- LOOKUP up to its check of ERR, from an idle state. -/
theorem runChecked_lookup {s u : State} (polls : Nat) (d : Word) (hl : s.latch = none)
    (hx : exec (.ringLookup .data) (s.lookupIssued d) = .next u) :
    runChecked (lookup s.cfg polls d) s = match u.error with
      | none => .finished (u.setRdata u.statusWord)
      | some c => .failed c.code (u.setRdata u.statusWord) := by
  have hcfg : u.cfg = s.cfg := (exec_cfg hx).trans rfl
  have operand : RunsTo [wr s.cfg 0x14 d] s (s.setDataIn d) := runsTo_wr s 5 d (by decide)
  have command : RunsTo (doCmd s.cfg polls (.ringLookup .data)) (s.setDataIn d) (u.setRdata u.statusWord) :=
    runsTo_doCmd (s := s.setDataIn d) polls hl (decode_encode rfl) hx
  have status : RunsTo [rd s.cfg 0x0C] (u.setRdata u.statusWord) (u.setRdata u.statusWord) :=
    hcfg ▸ runsTo_rd (u.setRdata u.statusWord) 3 (by decide)
  exact runChecked_of_runsTo (runsTo_append (runsTo_append operand command) status) ((exec_script hx).trans rfl)

/-- LOOKUP whose command left an error recorded fails with it. -/
theorem runLookup_failed {s u : State} {c : ErrCode} (polls : Nat) (d : Word) (hl : s.latch = none)
    (hx : exec (.ringLookup .data) (s.lookupIssued d) = .next u) (he : u.error = some c) :
    runLookup polls d s = .failed c.code (u.setRdata u.statusWord) := by
  rw [runLookup, runChecked_lookup polls d hl hx, he]
  rfl

/-- LOOKUP whose command left no error ends with LK_NODE read. -/
theorem runLookup_finished {s u : State} (polls : Nat) (d : Word) (hl : s.latch = none)
    (hx : exec (.ringLookup .data) (s.lookupIssued d) = .next u) (he : u.error = none) :
    runLookup polls d s = .finished (u.setRdata (u.lk.node.setWidth 32)) := by
  have hcfg : u.cfg = s.cfg := (exec_cfg hx).trans rfl
  have node : RunsTo [rd s.cfg 0x30] (u.setRdata u.statusWord) (u.setRdata (u.lk.node.setWidth 32)) :=
    hcfg ▸ runsTo_rd (u.setRdata u.statusWord) 12 (by decide)
  rw [runLookup, runChecked_lookup polls d hl hx, he]
  exact runHost_of_runsTo node rfl

/-- LOOKUP on a ring that serves none fails with the error of RING_LOOKUP (43_ring.md R97). -/
theorem runLookup_raises {s : State} {c : ErrCode} (polls : Nat) (d : Word) (hl : s.latch = none)
    (he : s.error = none) (hc : lookupError s = some c) :
    ∃ t, runLookup polls d s = .failed c.code t ∧ t.lk = s.lk ∧ t.error = some c := by
  have hx := exec_of_body_error (s := s.lookupIssued d) (i := .ringLookup .data) rfl (commandBody_error_iff.2 hc)
  have hu : (s.lookupIssued d).error.or (some c) = some c := congrArg (·.or (some c)) he
  exact ⟨_, runLookup_failed polls d hl hx hu, rfl, hu⟩

/-- Settles O57: `runChecked_lookup` reduces the run to the command's end, which is a lookup served, one of its two
errors, or the error recorded before. -/
theorem lookupEndsAsStatusSays : Obligations.LookupEndsAsStatusSays := by
  intro s polls d hl issued
  refine ⟨fun he hr => ?ready, fun he hr => ?empty, fun he hr => ?building, fun c he => ?earlier⟩
  case ready =>
    have hx := exec_ringLookup_ready (s := s.lookupIssued d) .data rfl hr
    refine ⟨_, hx, ?_⟩
    rw [runLookup_finished polls d hl hx he, BitVec.ofNat_toNat]
    rfl
  case empty => exact runLookup_raises polls d hl he (if_pos hr)
  case building => exact runLookup_raises (c := .ringNotReady) polls d hl he (by simp [lookupError, hr])
  case earlier =>
    obtain ⟨u, hx⟩ := exec_completes (s := s.lookupIssued d) (.ringLookup .data) rfl
    have hu : u.error = some c := exec_keeps_error (s := s.lookupIssued d) he hx
    rw [← ErrCode.code_eq]
    exact ⟨_, runLookup_failed polls d hl hx hu, hu⟩

/-! ### The appends of a load -/

/-- The list of points can be appended to the ring being built: it fits, its nodes are valid, and it goes on in order
from the entries there are (43_ring.md R95). -/
structure State.CanAppend (s : State) (ps : List RingPoint) : Prop where
  building : s.rstate = .building
  depth : s.cfg.ringDepth ≤ 65536
  fits : s.count + ps.length ≤ s.cfg.ringDepth
  nodes : ∀ p ∈ ps, p.node < s.ringNodes
  sorted : ps.Pairwise PointLe
  after : ∀ p ∈ ps, 0 < s.count → (s.ringEntry (s.count - 1)).point ≤ p.point

/-- `s` with a list of points added from RING_COUNT on. -/
def State.appends (s : State) (ps : List RingPoint) : State := ps.foldl State.append s

theorem State.CanAppend.count_append {s : State} {p : RingPoint} {ps : List RingPoint} (h : s.CanAppend (p :: ps)) :
    (s.append p).count = s.count + 1 := by
  have hfits := h.fits
  have hdepth := h.depth
  rw [List.length_cons] at hfits
  exact State.count_append p (by omega)

theorem State.CanAppend.tail {s : State} {p : RingPoint} {ps : List RingPoint} (h : s.CanAppend (p :: ps)) :
    (s.append p).CanAppend ps := by
  have hcount := h.count_append
  have hfits := h.fits
  rw [List.length_cons] at hfits
  obtain ⟨hfirst, hrest⟩ := List.pairwise_cons.1 h.sorted
  refine ⟨h.building, h.depth, ?_, fun q hq => h.nodes q (List.mem_cons_of_mem p hq), hrest, fun q hq _ => ?_⟩
  · rw [hcount]
    exact (Nat.add_right_comm ..).trans_le hfits
  · rw [hcount, Nat.add_sub_cancel, State.ringEntry_append, if_pos rfl]
    exact hfirst q hq

/-- The ring after the appends: RING_COUNT, and each entry. -/
theorem State.CanAppend.appends {s : State} {ps : List RingPoint} (h : s.CanAppend ps) :
    (s.appends ps).count = s.count + ps.length ∧
      (∀ k, k < s.count → (s.appends ps).ringEntry k = s.ringEntry k) ∧
      ∀ (k : Nat) (hk : k < ps.length), (s.appends ps).ringEntry (s.count + k) = ps[k] := by
  induction ps generalizing s with
  | nil => exact ⟨rfl, fun _ _ => rfl, nofun⟩
  | cons p ps ih =>
    obtain ⟨hcount, hbelow, hnew⟩ := ih h.tail
    have hone := h.count_append
    rw [hone] at hcount hbelow hnew
    refine ⟨?_, fun k hk => ?_, fun k hk => ?_⟩
    · rw [List.length_cons, Nat.add_comm ps.length, ← Nat.add_assoc]
      exact hcount
    · refine (hbelow k (by omega)).trans ?_
      rw [State.ringEntry_append, if_neg (by omega)]
    · cases k with
      | zero =>
        refine (hbelow s.count (by omega)).trans ?_
        rw [State.ringEntry_append, if_pos rfl]
        rfl
      | succ k =>
        have hplace : s.count + (k + 1) = s.count + 1 + k := by omega
        rw [hplace]
        exact hnew k (by rw [List.length_cons] at hk; omega)

/-- The appends change the table and RING_COUNT alone. -/
theorem State.appends_eq (s : State) (ps : List RingPoint) :
    s.appends ps = { s with ring := (s.appends ps).ring, ringCount := (s.appends ps).ringCount } := by
  induction ps generalizing s with
  | nil => rfl
  | cons p ps ih => exact ih (s.append p)

theorem State.appends_ran (s : State) (ps : List RingPoint) (d : Word) (dn : Bool) (r : Option Word) :
    (s.ran d dn r).appends ps = (s.appends ps).ran d dn r := by
  induction ps generalizing s with
  | nil => rfl
  | cons p ps ih => exact ih (s.append p)

/-! ### Schedules that raise no error -/

/-- The schedule `es` takes `s` to `t`, and with no error recorded before, the check of ERR after it passes. -/
structure ChecksTo (es : List PortEvent) (s t : State) : Prop where
  runs : RunsTo es s t
  checked : s.error = none → runChecked es s = .finished t

/-- A command that raised no error, its effect being `v`. -/
theorem RunsTo.checksTo {es : List PortEvent} {s u v : State} {d : Word}
    (h : RunsTo es s (u.finish.setRdata u.finish.statusWord)) (hu : u.finish = v.ran d true s.rdata)
    (herror : v.error = s.error) (hscript : v.script = s.script) : ∃ r, ChecksTo es s (v.ran d true r) := by
  rw [hu] at h
  refine ⟨_, h, fun he => ?_⟩
  rw [runChecked_of_runsTo h hscript, show (v.ran d true s.rdata).error = none from herror.trans he]
  rfl

/-- A schedule that left an error recorded fails its check with it. -/
theorem RunsTo.failed {es : List PortEvent} {s u : State} {c : ErrCode} (h : RunsTo es s (u.setRdata u.statusWord))
    (hs : u.script = s.script) (hc : u.error = some c) :
    runChecked es s = .failed c.code (u.setRdata u.statusWord) := by
  rw [runChecked_of_runsTo h hs, hc]

/-! ### RING_BEGIN -/

/-- `s` with a build for `n` nodes begun (43_ring.md R94). -/
def State.beginRing (s : State) (n : Half) : State := ((s.setRingNodes n).setRingCount 0).setRstate .building

theorem checksTo_ringBegin {s : State} (polls : Nat) {n : Half} (hl : s.latch = none) (hn : n ≠ 0) :
    ∃ r, ChecksTo (doCmd s.cfg polls (.ringBegin n)) s ((s.beginRing n).ran s.dataIn true r) :=
  (runsTo_doCmd_ok (i := .ringBegin n) polls hl rfl (if_neg hn)).checksTo rfl rfl rfl

/-- Sorted points with valid nodes, no more than the table holds, can be appended to a build just begun. -/
theorem State.canAppend_beginRing {s : State} {n : Half} {ps : List RingPoint} (hc : s.cfg.legal = true)
    (hfits : ps.length ≤ s.cfg.ringDepth) (hnodes : ∀ p ∈ ps, p.node < n) (hsorted : ps.Pairwise PointLe) :
    (s.beginRing n).CanAppend ps := by
  simp only [Config.legal, Bool.and_eq_true, decide_eq_true_eq] at hc
  exact ⟨rfl, hc.1.2, (Nat.zero_add _).trans_le hfits, hnodes, hsorted, fun _ _ hpos => absurd hpos (Nat.lt_irrefl 0)⟩

/-! ### RING_APPEND -/

/-- The host's side of the state has no part in whether points can be appended. -/
theorem State.CanAppend.ran {s : State} {ps : List RingPoint} (h : s.CanAppend ps) (d : Word) (dn : Bool)
    (r : Option Word) : (s.ran d dn r).CanAppend ps :=
  ⟨h.building, h.depth, h.fits, h.nodes, h.sorted, h.after⟩

theorem State.CanAppend.issued {s : State} {ps : List RingPoint} (h : s.CanAppend ps) (d : Word) (l : Latch) :
    ((s.setDataIn d).setLatch l).CanAppend ps :=
  ⟨h.building, h.depth, h.fits, h.nodes, h.sorted, h.after⟩

/-- A point that can be appended passes the four checks of R95. -/
theorem State.CanAppend.body {s : State} {p : RingPoint} {ps : List RingPoint} (h : s.CanAppend (p :: ps)) {l : Latch}
    (hl : l.opnd = p.point) : commandBody (.ringAppend p.node) s l = .ok (s.append p) := by
  have hfits := h.fits
  have hnode := h.nodes p List.mem_cons_self
  have horder := h.after p List.mem_cons_self
  rw [List.length_cons] at hfits
  simp only [commandBody, hl]
  rw [if_neg (not_not.2 h.building), if_neg (by omega), if_neg (BitVec.not_le.2 hnode),
    if_neg fun ⟨hpos, hlt⟩ => BitVec.not_lt.2 (horder hpos) hlt]
  rfl

theorem State.CanAppend.checksTo_loadPoint {s : State} {p : RingPoint} {ps : List RingPoint} (polls : Nat)
    (h : s.CanAppend (p :: ps)) (hl : s.latch = none) :
    ∃ r, ChecksTo (loadPoint s.cfg polls p) s ((s.append p).ran p.point true r) :=
  (runsTo_operand_doCmd polls p.point hl rfl ((h.issued p.point _).body rfl)).checksTo rfl rfl rfl

/-- The appends of a load, as a schedule and as a run with its checks. -/
theorem State.CanAppend.runsTo_appends {s : State} {ps : List RingPoint} (polls : Nat) (h : s.CanAppend ps)
    (hl : s.latch = none) :
    ∃ d dn r, RunsTo (ps.flatMap (loadPoint s.cfg polls)) s ((s.appends ps).ran d dn r) ∧
      (s.error = none → runAppends polls ps s = .finished ((s.appends ps).ran d dn r)) := by
  induction ps generalizing s with
  | nil =>
    have hsame := State.ran_self hl
    exact ⟨s.dataIn, s.done, s.rdata, hsame ▸ runsTo_nil s, fun _ => congrArg HostEnd.finished hsame.symm⟩
  | cons p ps ih =>
    obtain ⟨r, hfirst⟩ := h.checksTo_loadPoint polls hl
    obtain ⟨d, dn, r', hruns, hchecked⟩ := ih (h.tail.ran p.point true r) rfl
    rw [State.appends_ran] at hruns hchecked
    refine ⟨d, dn, r', runsTo_append hfirst.runs hruns, fun he => ?_⟩
    rw [runAppends, hfirst.checked he]
    exact hchecked he

theorem HostEnd.andThen_assoc (e : HostEnd) (f g : State → HostEnd) :
    (e.andThen f).andThen g = e.andThen fun t => (f t).andThen g := by
  cases e <;> rfl

theorem runAppends_append (polls : Nat) (xs ys : List RingPoint) (s : State) :
    runAppends polls (xs ++ ys) s = (runAppends polls xs s).andThen (runAppends polls ys) := by
  induction xs generalizing s with
  | nil => rfl
  | cons p xs ih =>
    rw [List.cons_append, runAppends, runAppends, HostEnd.andThen_assoc]
    exact congrArg _ (funext ih)

/-- An append to a full table stops the load with RING_FULL, the ring as it was (43_ring.md R95). -/
theorem runAppends_full {s : State} {p : RingPoint} {ps : List RingPoint} (polls : Nat) (hl : s.latch = none)
    (he : s.error = none) (hr : s.rstate = .building) (hfull : s.count = s.cfg.ringDepth) :
    ∃ t, runAppends polls (p :: ps) s = .failed 6 t ∧ t.error = some .ringFull ∧ t.rstate = .building ∧
      t.count = s.count ∧ ∀ k, t.ringEntry k = s.ringEntry k := by
  have operand : RunsTo [wr s.cfg 0x14 p.point] s (s.setDataIn p.point) := runsTo_wr s 5 p.point (by decide)
  have command := runsTo_doCmd (s := s.setDataIn p.point) polls hl (decode_encode rfl)
    (exec_ringAppend_error (k := p.node) (e := .ringFull) rfl ((if_neg (not_not.2 hr)).trans (if_pos hfull)))
  have herror : (s.setDataIn p.point).error.or (some .ringFull) = some .ringFull := congrArg (·.or (some .ringFull)) he
  have hfailed := (runsTo_append operand command).failed rfl herror
  exact ⟨_, congrArg (HostEnd.andThen · (runAppends polls ps)) hfailed, herror, hr, rfl, fun _ => rfl⟩

/-! ### RING_COMMIT and the whole load -/

theorem checksTo_ringCommit {s : State} (polls : Nat) (hl : s.latch = none) (hr : s.rstate = .building)
    (hc : s.ringCount ≠ 0) :
    ∃ r, ChecksTo (doCmd s.cfg polls .ringCommit) s ((s.setRstate .ready).ran s.dataIn true r) :=
  (runsTo_doCmd_ok (i := .ringCommit) polls hl rfl ((if_neg (not_not.2 hr)).trans (if_neg hc))).checksTo rfl rfl rfl

/-- The points of a load: sorted, with valid nodes, and at least one (43_ring.md R100). -/
structure Loadable (n : Half) (ps : List RingPoint) : Prop where
  nonempty : ps ≠ []
  nodes : ∀ p ∈ ps, p.node < n
  sorted : ps.Pairwise PointLe

theorem Loadable.nodes_ne_zero {n : Half} {ps : List RingPoint} (h : Loadable n ps) : n ≠ 0 := by
  rintro rfl
  obtain ⟨p, hp⟩ := List.exists_mem_of_ne_nil ps h.nonempty
  exact absurd (h.nodes p hp) BitVec.not_lt_zero

/-- `s` with the ring of `ps` built and published. -/
def State.loaded (s : State) (n : Half) (ps : List RingPoint) : State := ((s.beginRing n).appends ps).setRstate .ready

/-- The load of a list that fits, as a schedule and as a run with its checks (43_ring.md R100). -/
theorem Loadable.runsTo_loadRing {s : State} {n : Half} {ps : List RingPoint} (polls : Nat) (h : Loadable n ps)
    (hl : s.latch = none) (hc : s.cfg.legal = true) (hfits : ps.length ≤ s.cfg.ringDepth) :
    ∃ d dn r, RunsTo (loadRing s.cfg polls n ps) s ((s.loaded n ps).ran d dn r) ∧
      (s.error = none → runLoad polls n ps s = .finished ((s.loaded n ps).ran d dn r)) := by
  have hcan := State.canAppend_beginRing hc hfits h.nodes h.sorted
  obtain ⟨r, hbegin⟩ := checksTo_ringBegin polls hl h.nodes_ne_zero
  obtain ⟨d, dn, r', hruns, hchecked⟩ := (hcan.ran s.dataIn true r).runsTo_appends polls rfl
  rw [State.appends_ran] at hruns hchecked
  have hkept := (s.beginRing n).appends_eq ps
  have hcfg : ((s.beginRing n).appends ps).cfg = s.cfg := by rw [hkept]; rfl
  have hr : ((s.beginRing n).appends ps).rstate = .building := by rw [hkept]; rfl
  have herror : ((s.beginRing n).appends ps).error = s.error := by rw [hkept]; rfl
  have hcount : ((s.beginRing n).appends ps).ringCount ≠ 0 := by
    obtain ⟨hcount, -, -⟩ := hcan.appends
    intro hzero
    have hempty : (0 : Word).toNat = 0 := rfl
    have hpos := List.length_pos_iff.2 h.nonempty
    rw [State.count, hzero, hempty] at hcount
    omega
  obtain ⟨r'', hcommit⟩ := checksTo_ringCommit (s := ((s.beginRing n).appends ps).ran d dn r') polls rfl hr hcount
  refine ⟨d, true, r'', runsTo_append (runsTo_append hbegin.runs hruns) (hcfg ▸ hcommit.runs), fun he => ?_⟩
  rw [runLoad, hbegin.checked he, HostEnd.finished_andThen, hchecked he, HostEnd.finished_andThen]
  exact hcommit.checked (herror.trans he)

/-- A loaded ring has the points, in order, and leaves the other units as they were. -/
theorem State.loaded_eq (s : State) (n : Half) (ps : List RingPoint) :
    s.loaded n ps = { s with
      ring := (s.loaded n ps).ring, ringCount := (s.loaded n ps).ringCount, ringNodes := n, rstate := .ready } := by
  have hkept := (s.beginRing n).appends_eq ps
  rw [State.loaded, hkept]
  rfl

theorem Loadable.loaded {s : State} {n : Half} {ps : List RingPoint} (h : Loadable n ps) (hc : s.cfg.legal = true)
    (hfits : ps.length ≤ s.cfg.ringDepth) :
    (s.loaded n ps).ringCount.toNat = ps.length ∧
      ∀ (k : Nat) (hk : k < ps.length), (s.loaded n ps).ringEntry k = ps[k] := by
  obtain ⟨hcount, -, hentries⟩ := (State.canAppend_beginRing hc hfits h.nodes h.sorted).appends
  have hzero : (s.beginRing n).count = 0 := rfl
  simp only [hzero, Nat.zero_add] at hcount hentries
  exact ⟨hcount, hentries⟩

/-- Settles O52: the schedule runs to `State.loaded` (`Loadable.runsTo_loadRing`), which has the points as entries. -/
theorem loadingASortedListMakesAReadyRing : Obligations.LoadingASortedListMakesAReadyRing := by
  intro s polls nodes ps hl hc hne hfits hnodes hsorted
  have h : Loadable nodes ps := ⟨hne, hnodes, hsorted⟩
  obtain ⟨d, dn, r, hruns, -⟩ := h.runsTo_loadRing polls hl hc hfits
  obtain ⟨hcount, hentries⟩ := h.loaded (s := s) hc hfits
  have hkept := s.loaded_eq nodes ps
  exact ⟨_, hruns.runScript, (congrArg State.rstate hkept :), hcount, (congrArg State.ringNodes hkept :),
    (congrArg State.error hkept :), rfl, rfl, (congrArg State.crc hkept :), (congrArg State.md5 hkept :),
    (congrArg State.result hkept :), (congrArg State.digest hkept :), (congrArg State.lk hkept :), hentries⟩

/-- A list that does not fit is abandoned at the append of entry RING_DEPTH: BUILDING, with the points before it
(43_ring.md R100). -/
theorem Loadable.runLoad_full {s : State} {n : Half} {ps : List RingPoint} (polls : Nat) (h : Loadable n ps)
    (hl : s.latch = none) (hc : s.cfg.legal = true) (he : s.error = none) (hlong : s.cfg.ringDepth < ps.length) :
    ∃ t, runLoad polls n ps s = .failed 6 t ∧ t.error = some .ringFull ∧ t.rstate = .building ∧
      t.ringCount.toNat = s.cfg.ringDepth ∧
      ∀ (k : Nat) (hk : k < ps.length), k < s.cfg.ringDepth → t.ringEntry k = ps[k] := by
  have htake : (ps.take s.cfg.ringDepth).length = s.cfg.ringDepth := by rw [List.length_take]; omega
  have hcan : (s.beginRing n).CanAppend (ps.take s.cfg.ringDepth) :=
    State.canAppend_beginRing hc htake.le (fun p hp => h.nodes p (List.mem_of_mem_take hp))
      (h.sorted.sublist (List.take_sublist _ _))
  have hsplit : ps = ps.take s.cfg.ringDepth ++ ps[s.cfg.ringDepth] :: ps.drop (s.cfg.ringDepth + 1) := by
    rw [← List.drop_eq_getElem_cons, List.take_append_drop]
  obtain ⟨r, hbegin⟩ := checksTo_ringBegin polls hl h.nodes_ne_zero
  obtain ⟨d, dn, r', -, hchecked⟩ := (hcan.ran s.dataIn true r).runsTo_appends polls rfl
  rw [State.appends_ran] at hchecked
  obtain ⟨hcount, -, hentries⟩ := hcan.appends
  have hkept := (s.beginRing n).appends_eq (ps.take s.cfg.ringDepth)
  have hzero : (s.beginRing n).count = 0 := rfl
  rw [hzero, Nat.zero_add, htake] at hcount
  simp only [hzero, Nat.zero_add] at hentries
  generalize (s.beginRing n).appends (ps.take s.cfg.ringDepth) = filled at hchecked hcount hentries hkept
  have hcfg : filled.cfg = s.cfg := by rw [hkept]; rfl
  obtain ⟨t, hfailed, herror, hr, hcount', hentries'⟩ := runAppends_full (s := filled.ran d dn r')
    (p := ps[s.cfg.ringDepth]) (ps := ps.drop (s.cfg.ringDepth + 1)) polls rfl (by rw [hkept]; exact he)
    (by rw [hkept]; rfl) (hcount.trans (congrArg Config.ringDepth hcfg.symm))
  have happends : runAppends polls ps ((s.beginRing n).ran s.dataIn true r) = .failed 6 t := by
    refine (congrArg (runAppends polls · _) hsplit).trans ?_
    rw [runAppends_append, hchecked he, HostEnd.finished_andThen]
    exact hfailed
  refine ⟨t, ?_, herror, hr, hcount'.trans hcount, fun k hk hlt => ?_⟩
  · rw [runLoad, hbegin.checked he, HostEnd.finished_andThen, happends, HostEnd.failed_andThen]
  · have hentry := hentries k (by omega)
    rw [List.getElem_take] at hentry
    exact (hentries' k).trans hentry

/-- Settles O58: a list that fits by `Loadable.runsTo_loadRing`, one that does not by `Loadable.runLoad_full`; an error
recorded before is still there at the check after RING_BEGIN. -/
theorem loadChecksEachCommand : Obligations.LoadChecksEachCommand := by
  intro s polls nodes ps hl hc
  refine ⟨fun he hne hnodes hsorted => ⟨fun hfits => ?fits, fun hlong => ?full⟩, fun c he => ?earlier⟩
  case fits =>
    have h : Loadable nodes ps := ⟨hne, hnodes, hsorted⟩
    obtain ⟨d, dn, r, hruns, hchecked⟩ := h.runsTo_loadRing polls hl hc hfits
    have hkept := s.loaded_eq nodes ps
    have hscript : ((s.loaded nodes ps).ran d dn r).script = s.script := (congrArg State.script hkept :)
    refine ⟨_, hchecked he, ?_, (congrArg State.rstate hkept :), (congrArg State.error hkept :).trans he⟩
    rw [hruns.runScript, ← hscript]
    rfl
  case full => exact (Loadable.mk hne hnodes hsorted).runLoad_full polls hl hc he hlong
  case earlier =>
    obtain ⟨u, hx⟩ := exec_completes (s := s.setLatch (s.latchOf (encode (.ringBegin nodes)))) (.ringBegin nodes) rfl
    have hu : u.error = some c := exec_keeps_error (s := s.setLatch _) he hx
    have hring : u.ring = s.ring := by
      obtain ⟨l, -, rfl | ⟨c', rfl⟩⟩ := exec_next_effect hx <;> rfl
    have hfailed := (runsTo_doCmd polls hl (decode_encode rfl) hx).failed ((exec_script hx).trans rfl) hu
    refine ⟨u.setRdata u.statusWord, ?_, hring⟩
    rw [runLoad, hfailed, HostEnd.failed_andThen, HostEnd.failed_andThen, ErrCode.code_eq]

/-! ### A build -/

/-- The nodes of the points generated from a list have the list's indices (43_ring.md R99). -/
theorem node_of_mem_generatePoints {n : Nat} {nodes : List HostNode} {p : RingPoint} (h : p ∈ generatePoints n nodes) :
    ∃ k, k < n + nodes.length ∧ p.node = BitVec.ofNat 16 k := by
  induction nodes generalizing n with
  | nil => simp [generatePoints] at h
  | cons nd nodes ih =>
    rw [List.length_cons]
    obtain h | h := List.mem_append.1 h
    · refine ⟨n, by omega, ?_⟩
      simp only [nodePoints, digestPoints, List.mem_flatMap, List.mem_map] at h
      obtain ⟨_, -, _, -, rfl⟩ := h
      rfl
    · obtain ⟨k, hk, hnode⟩ := ih h
      exact ⟨k, by omega, hnode⟩

/-- What a build loads can be loaded: the points of valid nodes, sorted. -/
theorem loadable_sortPoints {nodes : List HostNode} (hweights : ∀ nd ∈ nodes, 0 < nd.weight) (h1 : 1 ≤ nodes.length)
    (hmax : nodes.length ≤ 65535) : Loadable (BitVec.ofNat 16 nodes.length) (sortPoints (generatePoints 0 nodes)) := by
  refine ⟨?_, fun p hp => ?_, sortPoints_sorted _⟩
  · obtain ⟨nd, rest, rfl⟩ := List.exists_cons_of_length_pos h1
    have hweight : 0 < nd.weight.toNat := by have := hweights nd List.mem_cons_self; omega
    refine List.length_pos_iff.1 ?_
    rw [(sortPoints_perm _).length_eq, generatePoints_length, totalPoints, List.map_cons, List.sum_cons]
    omega
  · obtain ⟨k, hk, hnode⟩ := node_of_mem_generatePoints ((sortPoints_perm _).mem_iff.1 hp)
    rw [hnode, BitVec.lt_def, BitVec.toNat_ofNat, BitVec.toNat_ofNat]
    omega

/-- Settles O59: the plan passes its checks (O56), its points can be loaded (`loadable_sortPoints`), and the ring loaded
holds them in the order of the sort, which is ascending and stable (O53). -/
theorem buildMakesAReadyRing : Obligations.BuildMakesAReadyRing := by
  intro s polls nodes hl hc he hweights h1 hmax htotal
  obtain ⟨-, hbuild⟩ := invalidWeightRejectsTheBuild s polls nodes
  obtain ⟨-, -, hloaded⟩ := hbuild hweights
  have hlen : (sortPoints (generatePoints 0 nodes)).length = totalPoints nodes := by
    rw [(sortPoints_perm _).length_eq, generatePoints_length]
  have h := loadable_sortPoints hweights h1 hmax
  have hfits : (sortPoints (generatePoints 0 nodes)).length ≤ s.cfg.ringDepth := hlen.trans_le htotal
  obtain ⟨d, dn, r, -, hchecked⟩ := h.runsTo_loadRing polls hl hc hfits
  obtain ⟨hcount, hentries⟩ := h.loaded (s := s) hc hfits
  have hkept := s.loaded_eq (BitVec.ofNat 16 nodes.length) (sortPoints (generatePoints 0 nodes))
  have hring : (List.range (totalPoints nodes)).map
      (s.loaded (BitVec.ofNat 16 nodes.length) (sortPoints (generatePoints 0 nodes))).ringEntry =
        sortPoints (generatePoints 0 nodes) := by
    refine List.ext_getElem (by simp [hlen]) fun k hk hk' => ?_
    rw [List.getElem_map, List.getElem_range, hentries k hk']
  have hnodes : (BitVec.ofNat 16 nodes.length).toNat = nodes.length := Nat.mod_eq_of_lt (by omega)
  refine ⟨_, (hloaded h1 hmax htotal).trans (hchecked he), (congrArg State.rstate hkept :), hcount.trans hlen,
    (congrArg (fun t => t.ringNodes.toNat) hkept :).trans hnodes, (congrArg State.error hkept :).trans he, ?_, ?_⟩
  · exact hring.symm ▸ sortPoints_sorted _
  · exact fun v => (congrArg _ hring).trans (sortPoints_stable _ v)

end Sys2Proof.Machine
end
